-- ==== Sys2Proof/Word.lean ====
section
/-! DEFINITION. The sizes of the hardware's data: 00_scope R8, R10, R11, R12. -/

namespace Sys2Proof

/-- A byte, 8 bits (00_scope R11). -/
abbrev Byte := BitVec 8

/-- The host data width, 32 bits (00_scope R10, R11). -/
abbrev Word := BitVec 32

/-- A Block: 16 bytes `b[0] .. b[15]`, index 0 the first byte in the caller's order (00_scope R8, R12). -/
abbrev Block := Vector Byte 16

/-- A MasterKey: 64 bytes (00_scope R8, R12). -/
abbrev MasterKey := Vector Byte 64

/-- A RoundKeySequence: 16 Blocks `K[0] .. K[15]` (00_scope R8, R12). -/
abbrev RoundKeys := Vector Block 16

end Sys2Proof
end

