-- ==== Sys2Proof/Config.lean ====
section
/-! DEFINITION. What the spec leaves as a parameter (00_scope R9) and the one free value (10_state R36).
The default values stand in Machine/Parameters.lean; what a claim may assume of a parameter is
`Config.Lawful` in Safety.lean. -/

namespace Sys2Proof

/-- The replaceable parameters of 00_scope R9. Not state (10_state R20). -/
structure Config where
  /-- `SBOX` (40_round_primitives R92). -/
  sbox : Byte → Byte
  /-- `INVSBOX` (40_round_primitives R93): no parameter of its own, fixed by `sbox` through the two
  equations of R93, which `Config.Lawful` asks for. DESIGN CHOICE (log entry 8): held as a table. -/
  invSbox : Byte → Byte
  /-- `POLY`, the reduction polynomial as a 9-bit pattern (40_round_primitives R91). -/
  poly : BitVec 9
  /-- `SHIFT`: how many columns row r rotates left (40_round_primitives R96). -/
  shift : Fin 4 → Fin 4
  /-- `MIXMAT`, row then column (40_round_primitives R98). -/
  mixmat : Fin 4 → Fin 4 → Byte
  /-- `INVMIXMAT`, row then column (40_round_primitives R99). -/
  invMixmat : Fin 4 → Fin 4 → Byte
  /-- `LAYOUT`: byte index to (row, column) (40_round_primitives R90). -/
  rowCol : Fin 16 → Fin 4 × Fin 4
  /-- `LAYOUT` read the other way: the byte index at (row, column) (40_round_primitives R90). -/
  byteAt : Fin 4 → Fin 4 → Fin 16
  /-- `CHUNK` (41_key_schedule R120). -/
  chunk : MasterKey → Fin 16 → Block
  /-- `RCON`, i in 0..14; there is no `RCON[15]` (41_key_schedule R121). -/
  rcon : Fin 15 → Byte
  /-- `KEYMIX` (41_key_schedule R122). -/
  keymix : Block → Byte → Block
  /-- `NBLK`, the number of blocks of `DMEM`; `OPEN` (10_state R29). -/
  nblk : Nat

/-- A free value: the byte that draw number `n` puts at `DMEM` address `a`.
10_state R36: after every `RESET` the contents are a fresh draw, and a claim may assume nothing of it. It has
no body, so nothing can be proved of its values (log entry 4). -/
opaque Config.dmemDraw (n a : Nat) : Byte

end Sys2Proof
end

