-- ==== Sys2Proof/Machine/Field.lean ====
section
/-! DEFINITION. Byte arithmetic, 40_round_primitives R91. Addition is exclusive-or. -/

namespace Sys2Proof.Machine

/-- `xtime(a)`: `2*a` on 9 bits, reduced by `POLY` when bit 7 of `a` is set; the result is a byte
(40_round_primitives R91). -/
def xtime (poly : BitVec 9) (a : Byte) : Byte :=
  if a.getLsbD 7 then ((a.zeroExtend 9 <<< 1) ^^^ poly).truncate 8 else a <<< 1

/-- `xtime^i(a)`: `xtime` applied i times (40_round_primitives R91). -/
def xtimePow (poly : BitVec 9) : Nat → Byte → Byte
  | 0, a => a
  | i + 1, a => xtime poly (xtimePow poly i a)

/-- `gmul(a, b)`: the XOR over i in 0..7 with `b[i] = 1` of `xtime^i(a)` (40_round_primitives R91). -/
def gmul (poly : BitVec 9) (a b : Byte) : Byte :=
  (List.range 8).foldl (fun acc i => if b.getLsbD i then acc ^^^ xtimePow poly i a else acc) 0#8

end Sys2Proof.Machine
end

