-- ==== Sys2Proof/Machine/Primitives.lean ====
section
/-! DEFINITION. The pure round primitives, 40_round_primitives R94 to R100, for any parameters. Each is total, with no
state and no error outcome. The state matrix `s[r][c]` is read through `LAYOUT` (R90). -/

namespace Sys2Proof.Machine

/-- `s[r][c]` (40_round_primitives R90). -/
def cell (cfg : Config) (b : Block) (r c : Fin 4) : Byte := b[cfg.byteAt r c]

/-- The Block whose `s'[r][c]` is `f r c` (40_round_primitives R90). -/
def ofCells (cfg : Config) (f : Fin 4 → Fin 4 → Byte) : Block :=
  Vector.ofFn fun i => f (cfg.rowCol i).1 (cfg.rowCol i).2

/-- `b'[i] = SBOX[b[i]]` (40_round_primitives R94). -/
def subBytes (cfg : Config) (b : Block) : Block := Vector.ofFn fun i => cfg.sbox b[i]

/-- `b'[i] = INVSBOX[b[i]]` (40_round_primitives R95). -/
def invSubBytes (cfg : Config) (b : Block) : Block := Vector.ofFn fun i => cfg.invSbox b[i]

/-- `s'[r][c] = s[r][(c + SHIFT r) mod 4]` (40_round_primitives R96); `Fin 4` adds modulo 4. -/
def shiftRows (cfg : Config) (b : Block) : Block := ofCells cfg fun r c => cell cfg b r (c + cfg.shift r)

/-- `s'[r][c] = s[r][(c - SHIFT r) mod 4]` (40_round_primitives R97). -/
def invShiftRows (cfg : Config) (b : Block) : Block := ofCells cfg fun r c => cell cfg b r (c - cfg.shift r)

/-- Each column multiplied by a 4x4 matrix in the byte field (40_round_primitives R98, R99). -/
def mulColumns (cfg : Config) (m : Fin 4 → Fin 4 → Byte) (b : Block) : Block :=
  ofCells cfg fun r c =>
    gmul cfg.poly (m r 0) (cell cfg b 0 c) ^^^ gmul cfg.poly (m r 1) (cell cfg b 1 c) ^^^
      gmul cfg.poly (m r 2) (cell cfg b 2 c) ^^^ gmul cfg.poly (m r 3) (cell cfg b 3 c)

/-- The product of `MIXMAT` with each column (40_round_primitives R98). -/
def mixColumns (cfg : Config) (b : Block) : Block := mulColumns cfg cfg.mixmat b

/-- The product of `INVMIXMAT` with each column (40_round_primitives R99). -/
def invMixColumns (cfg : Config) (b : Block) : Block := mulColumns cfg cfg.invMixmat b

/-- `b'[i] = b[i] ^ k[i]` (40_round_primitives R100); no parameter enters it. -/
def addRoundKey (b k : Block) : Block := Vector.ofFn fun i => b[i] ^^^ k[i]

end Sys2Proof.Machine
end

