-- ==== Sys2Proof/Machine/BlockTransform.lean ====
section
/-! DEFINITION. The pure block transform, 42_block_transform R135 to R137, and the pure ECB functions, 43_ecb R150. -/

namespace Sys2Proof.Machine

/-- Substitution, row shift, column mixing, key XOR (42_block_transform R135). -/
def fullRound (cfg : Config) (s k : Block) : Block :=
  addRoundKey (mixColumns cfg (shiftRows cfg (subBytes cfg s))) k

/-- The final round omits the column mixing (42_block_transform R135). -/
def finalRound (cfg : Config) (s k : Block) : Block :=
  addRoundKey (shiftRows cfg (subBytes cfg s)) k

/-- `InvFullRound` (42_block_transform R135). -/
def invFullRound (cfg : Config) (s k : Block) : Block :=
  invSubBytes cfg (invShiftRows cfg (invMixColumns cfg (addRoundKey s k)))

/-- `InvFinalRound` (42_block_transform R135). -/
def invFinalRound (cfg : Config) (s k : Block) : Block :=
  invSubBytes cfg (invShiftRows cfg (addRoundKey s k))

/-- The full rounds, 1 to 14 (00_scope R8). -/
def fullRounds : List (Fin 16) := [1, 2, 3, 4, 5, 6, 7, 8, 9, 10, 11, 12, 13, 14]

/-- `Encrypt(b, K)` (42_block_transform R136). -/
def encrypt (cfg : Config) (b : Block) (K : RoundKeys) : Block :=
  finalRound cfg (fullRounds.foldl (fun s r => fullRound cfg s K[r]) (addRoundKey b K[0])) K[15]

/-- One pass of the loop of `Decrypt` (42_block_transform R137): undo `Sub` and `ShiftRows` of round r+1, the key XOR of
round r, the column mixing of round r. -/
def decryptPass (cfg : Config) (s k : Block) : Block :=
  invMixColumns cfg (addRoundKey (invSubBytes cfg (invShiftRows cfg s)) k)

/-- `Decrypt(b, K)` (42_block_transform R137), the rounds taken 14 down to 1. -/
def decrypt (cfg : Config) (b : Block) (K : RoundKeys) : Block :=
  let s := fullRounds.reverse.foldl (fun s r => decryptPass cfg s K[r]) (addRoundKey b K[15])
  addRoundKey (invSubBytes cfg (invShiftRows cfg s)) K[0]

/-- `EncryptAll(B, K)` (43_ecb R150). -/
def encryptAll (cfg : Config) (B : List Block) (K : RoundKeys) : List Block :=
  B.map fun b => encrypt cfg b K

/-- `DecryptAll(B, K)` (43_ecb R150). -/
def decryptAll (cfg : Config) (B : List Block) (K : RoundKeys) : List Block :=
  B.map fun b => decrypt cfg b K

end Sys2Proof.Machine
end

