-- ==== Sys2Proof/Machine/Bytes.lean ====
section
/-! DEFINITION. Byte order: words against byte vectors, little-endian (00_scope R12, 20_memory R51). -/

namespace Sys2Proof.Machine

/-- The word of four bytes, the first the least significant: `b0 + 2^8*b1 + 2^16*b2 + 2^24*b3` (00_scope R12). -/
def leWord (b0 b1 b2 b3 : Byte) : Word := b3 ++ b2 ++ b1 ++ b0

/-- `v[8m+7:8m]`, byte m of a word (20_memory R51). -/
def wordByte (v : Word) (m : Nat) : Byte := v.extractLsb' (8 * m) 8

/-- Word j of a byte vector: `W_j[8m+7:8m] = b[4j+m]` (00_scope R12). -/
def wordAt {n : Nat} (b : Vector Byte n) (j : Nat) (h : 4 * j + 3 < n) : Word :=
  leWord b[4 * j] b[4 * j + 1] b[4 * j + 2] b[4 * j + 3]

/-- Word j replaced, every other byte kept (44_host_access R165: "Each case changes only what it names"). -/
def setWordAt {n : Nat} (b : Vector Byte n) (j : Nat) (v : Word) : Vector Byte n :=
  Vector.ofFn fun i => if i.val / 4 = j then wordByte v (i.val % 4) else b[i]

/-- The 128-bit lane value of a Block: `V[8i+7:8i] = b[i]` (00_scope R12). -/
def laneValue (b : Block) : BitVec 128 :=
  wordAt b 3 (by decide) ++ wordAt b 2 (by decide) ++ wordAt b 1 (by decide) ++ wordAt b 0 (by decide)

end Sys2Proof.Machine
end

