-- ==== Sys2Proof/Machine/State.lean ====
section
/-! DEFINITION. The machine's state as plain data: 10_state R20 and R35, the host's steps (00_scope R14), the error
codes' names (60_exceptions R181). -/

namespace Sys2Proof.Machine

/-- The data memory `DMEM` (10_state R29): the bytes written since the last reset, as (address, byte) pairs with strictly
rising addresses, over draw number `draw` of 10_state R36, which every other byte reads from (log entries 4 and 5). -/
structure Memory where
  cells : List Host.Cell
  draw : Nat
deriving DecidableEq, Repr

/-- The complete architectural state of the hardware, exactly the tuple of 10_state R20. -/
structure CoreState where
  /-- `KEY`, the master key as the host supplied it (10_state R23). -/
  key : MasterKey
  /-- `KEYFILL`, bit i set when `KEYW[i]` has been written since reset (10_state R24). -/
  keyfill : BitVec 16
  /-- `RK[0..15]`, the round keys of the last successful `KEXP` (10_state R25). -/
  rk : RoundKeys
  /-- `KV`, key valid (10_state R26). -/
  kv : Bool
  /-- `BLK`, the block register (10_state R21). -/
  blk : Block
  /-- `BLKFILL`, bit j set when `BLKW[j]` has been written since reset (10_state R22). -/
  blkfill : BitVec 4
  /-- `SRC` (10_state R28). -/
  src : Word
  /-- `DST` (10_state R28). -/
  dst : Word
  /-- `COUNT` (10_state R28). -/
  count : Word
  /-- `ERR`, set when a precondition violation has been detected since reset (10_state R27). -/
  err : Bool
  /-- `ECODE`, the code of that violation (10_state R27, 60_exceptions R181). -/
  ecode : BitVec 4
  /-- `DMEM` (10_state R29). -/
  dmem : Memory
deriving DecidableEq, Repr

/-- A host step (00_scope R14, 44_host_access R165 to R167). An offset is a natural below 2^32 (00_scope R10). -/
inductive HostStep where
  /-- `WR(off, v)` (44_host_access R165) -/
  | wr (off v : Word)
  /-- `RD(off)` (44_host_access R166) -/
  | rd (off : Word)
  /-- `RESET` (44_host_access R167) -/
  | reset
deriving DecidableEq, Repr

/-- The block and its host. `toCoreState` is the block's whole state (10_state R20); the two further fields are the model's
own and are the host's side of a run (00_scope R14; log entries 1 and 3). -/
structure State extends CoreState where
  /-- The host steps not yet issued, the next one first. -/
  pending : List HostStep
  /-- The words `RD` steps have returned, the oldest first: the run's observable result (00_scope R14). -/
  returned : List Word
deriving DecidableEq, Repr

/-- Why the machine stops with a fault. It has no constructor: every host step is total and no step is stuck
(00_scope R15), and an error of 60_exceptions is a next state with `ERR` set, not a stop (log entry 9). Safe: nothing raises
one. -/
inductive Fault where
deriving DecidableEq, Repr

/-- Why an instruction has no meaning. -/
inductive Refusal where
  /-- Raised by an arm of `exec` that has no meaning yet; no arm does. Safe: it claims nothing of the instruction. -/
  | notModelled (mnemonic : String)
deriving DecidableEq, Repr

/-- The errors of 60_exceptions R181, in the order of their codes 1 to 7. -/
inductive ErrCode where
  /-- `E_ILLCMD` (60_exceptions R182) -/
  | illCmd
  /-- `E_KEYLEN` (60_exceptions R183) -/
  | keyLen
  /-- `E_BLKLEN` (60_exceptions R184) -/
  | blkLen
  /-- `E_NOKEY` (60_exceptions R185) -/
  | noKey
  /-- `E_RANGE` (60_exceptions R186) -/
  | range
  /-- `E_OVERLAP` (60_exceptions R187) -/
  | overlap
  /-- `E_ADDR` (60_exceptions R188) -/
  | addr
deriving DecidableEq, Repr

/-- A Block of 0x00. -/
abbrev zeroBlock : Block := Vector.replicate 16 0x00#8

/-- The machine right after reset: every register and flag 0, `DMEM` with nothing written (10_state R35, R36). The draw number
0, the empty `pending` and the empty `returned` are the model's own (DESIGN CHOICE, log entries 1, 3, 4). -/
def State.reset : State where
  key := Vector.replicate 64 0x00#8
  keyfill := 0x0000#16
  rk := Vector.replicate 16 zeroBlock
  kv := false
  blk := zeroBlock
  blkfill := 0x0#4
  src := 0x00000000#32
  dst := 0x00000000#32
  count := 0x00000000#32
  err := false
  ecode := 0#4
  dmem := { cells := [], draw := 0 }
  pending := []
  returned := []

end Sys2Proof.Machine
end

