-- ==== Sys2Proof/Machine/Operands.lean ====
section
/-! DEFINITION. What an offset or a register names: the register map (10_state R31, 20_memory R58), the word views of the
registers (10_state R21, R23, R25) and the operands of the ECB commands (43_ecb R155, 30_encoding R71). -/

namespace Sys2Proof.Machine

/-- What stands at a host offset (10_state R31). -/
inductive HostReg where
  | cmd
  | status
  | src
  | dst
  | count
  | blkw (j : Fin 4)
  | keyw (i : Fin 16)
  | rkw (n : Fin 64)
  /-- word n of `DMEM`, below `4*NBLK` -/
  | dmemw (n : Nat)
  /-- not a multiple of 4 (20_memory R55) -/
  | misaligned
  /-- a multiple of 4 that 20_memory R58 lists as unmapped -/
  | unmapped
deriving DecidableEq, Repr

/-- The register map (10_state R31, 20_memory R58). -/
def regAt (nblk : Nat) (off : Word) : HostReg :=
  let o := off.toNat
  if o % 4 ≠ 0 then .misaligned
  else if o = 0x000 then .cmd
  else if o = 0x004 then .status
  else if o = 0x008 then .src
  else if o = 0x00C then .dst
  else if o = 0x010 then .count
  else if h : 0x020 ≤ o ∧ o < 0x030 then .blkw ⟨(o - 0x020) / 4, by omega⟩
  else if h : 0x040 ≤ o ∧ o < 0x080 then .keyw ⟨(o - 0x040) / 4, by omega⟩
  else if h : 0x100 ≤ o ∧ o < 0x200 then .rkw ⟨(o - 0x100) / 4, by omega⟩
  else if 0x1000 ≤ o ∧ o < 0x1000 + 16 * nblk then .dmemw ((o - 0x1000) / 4)
  else .unmapped

/-- `BLKW[j]` (10_state R21). -/
def blkWord (s : State) (j : Fin 4) : Word := wordAt s.blk j.val (by omega)

/-- `KEYW[i]` (10_state R23). -/
def keyWord (s : State) (i : Fin 16) : Word := wordAt s.key i.val (by omega)

/-- `RKW[4r+w]`, word w of `RK[r]` (10_state R25). -/
def rkWord (s : State) (n : Fin 64) : Word :=
  wordAt (s.rk[n.val / 4]) (n.val % 4) (by omega)

/-- `src = SRC` as an unsigned natural (30_encoding R71, 43_ecb R155). -/
def srcIndex (s : State) : Nat := s.src.toNat

/-- `dst = DST` as an unsigned natural (30_encoding R71, 43_ecb R155). -/
def dstIndex (s : State) : Nat := s.dst.toNat

/-- `n = COUNT` as an unsigned natural (30_encoding R71, 43_ecb R155). -/
def blockCount (s : State) : Nat := s.count.toNat

end Sys2Proof.Machine
end

