-- ==== Sys2Proof/Machine/Flags.lean ====
section
/-! DEFINITION. The flags: fill masks (10_state R22, R24), `STATUS` (10_state R30), error codes (60_exceptions R181), and the
preconditions that read them (40_round_primitives R102, 41_key_schedule R128, 43_ecb R156). -/

namespace Sys2Proof.Machine

/-- The codes of 60_exceptions R181. -/
def errCode : ErrCode → BitVec 4
  | .illCmd => 1#4
  | .keyLen => 2#4
  | .blkLen => 3#4
  | .noKey => 4#4
  | .range => 5#4
  | .overlap => 6#4
  | .addr => 7#4

/-- A fill mask with bit i set, the others kept (10_state R22, R24). -/
def setFill {n : Nat} (mask : BitVec n) (i : Nat) : BitVec n := mask ||| (1#n <<< i)

/-- `STATUS` as read: `KEYFILL` 31:16, 0, `BLKFILL` 11:8, `ECODE` 7:4, 0, `ERR` 1, `KV` 0 (10_state R30). -/
def statusWord (s : State) : Word :=
  s.keyfill ++ 0#4 ++ s.blkfill ++ s.ecode ++ 0#2 ++ BitVec.ofBool s.err ++ BitVec.ofBool s.kv

/-- `BLKFILL = 0xF` (10_state R22). -/
def blkReady (s : State) : Bool := s.blkfill == 0xF#4

/-- `KEYFILL = 0xFFFF` (10_state R24). -/
def keyReady (s : State) : Bool := s.keyfill == 0xFFFF#16

/-- The second test of 43_ecb R156: `COUNT > 0` and some block of either sequence lies outside `DMEM`. Sums are exact. -/
def ecbOutOfRange (cfg : Config) (s : State) : Bool :=
  decide (blockCount s > 0 ∧
    (srcIndex s + blockCount s > cfg.nblk ∨ dstIndex s + blockCount s > cfg.nblk))

/-- `|SRC - DST|`, the larger minus the smaller (43_ecb R156). -/
def blockDistance (s : State) : Nat :=
  if srcIndex s ≤ dstIndex s then dstIndex s - srcIndex s else srcIndex s - dstIndex s

/-- The third test of 43_ecb R156: the two sequences share some but not all blocks. -/
def ecbOverlaps (s : State) : Bool :=
  decide (blockCount s > 0 ∧ srcIndex s ≠ dstIndex s ∧ blockDistance s < blockCount s)

end Sys2Proof.Machine
end

