-- ==== Sys2Proof/Machine/Ops.lean ====
section
/-! DEFINITION. The shared operations: `DMEM` (20_memory R53, R54), error entry (60_exceptions R191), reset
(44_host_access R167), and the template every command follows (40_round_primitives R102). -/

namespace Sys2Proof.Machine

/-! ### The data memory -/

/-- The byte listed at address a, if one is. -/
def lookupCell : List Host.Cell → Nat → Option Byte
  | [], _ => none
  | (a', b) :: cs, a => if a' = a then some b else lookupCell cs a

/-- The list with byte b at address a, in address order. -/
def insertCell : List Host.Cell → Nat → Byte → List Host.Cell
  | [], a, b => [(a, b)]
  | (a', b') :: cs, a, b =>
    if a < a' then (a, b) :: (a', b') :: cs
    else if a = a' then (a, b) :: cs
    else (a', b') :: insertCell cs a b

/-- Every address of the list is above `lo` and the addresses rise strictly. -/
def risingAbove : Option Nat → List Host.Cell → Bool
  | _, [] => true
  | none, (a, _) :: cs => risingAbove (some a) cs
  | some lo, (a, _) :: cs => decide (lo < a) && risingAbove (some a) cs

/-- The canonical form of `DMEM`: strictly rising addresses. A byte not listed has no value of its own, so no listed byte can
equal it (log entry 5). -/
def Memory.wf (m : Memory) : Bool := risingAbove none m.cells

/-- Every listed address lies inside the `16*NBLK` bytes of `DMEM` (10_state R29). -/
def Memory.inside (nblk : Nat) (m : Memory) : Bool := m.cells.all fun c => decide (c.1 < 16 * nblk)

/-- `DMEM[a]`: the byte last written since reset, else the drawn byte (20_memory R60 (2), 10_state R36). -/
def readByte (m : Memory) (a : Nat) : Byte :=
  match lookupCell m.cells a with
  | some b => b
  | none => Config.dmemDraw m.draw a

/-- `DMEM[a] <- b`. -/
def writeByte (m : Memory) (a : Nat) (b : Byte) : Memory := { m with cells := insertCell m.cells a b }

/-- Bytes written at consecutive addresses from a. -/
def writeBytes : Memory → Nat → List Byte → Memory
  | m, _, [] => m
  | m, a, b :: bs => writeBytes (writeByte m a b) (a + 1) bs

/-- `MemRead(a, 16)`: `b[i] = DMEM[16a + i]` (20_memory R53). -/
def memRead (m : Memory) (a : Nat) : Block := Vector.ofFn fun i => readByte m (16 * a + i.val)

/-- `MemWrite(a, 16, v)`: `DMEM[16a + i] <- v[i]` (20_memory R53). -/
def memWrite (m : Memory) (a : Nat) (v : Block) : Memory := writeBytes m (16 * a) v.toList

/-- `DMEMW[n]` as the host reads it (20_memory R54). -/
def readMemWord (m : Memory) (n : Nat) : Word :=
  leWord (readByte m (4 * n)) (readByte m (4 * n + 1)) (readByte m (4 * n + 2)) (readByte m (4 * n + 3))

/-- `DMEMW[n]` written by the host: `DMEM[4n+m] <- v[8m+7:8m]` (20_memory R54). -/
def writeMemWord (m : Memory) (n : Nat) (v : Word) : Memory :=
  writeBytes m (4 * n) [wordByte v 0, wordByte v 1, wordByte v 2, wordByte v 3]

/-- A memory after reset: nothing written, a fresh draw (10_state R36). -/
def redraw (m : Memory) : Memory := { cells := [], draw := m.draw + 1 }

/-! ### Error entry, and the reset that alone leaves it -/

/-- `raise E(code)`: `ERR <- 1`, `ECODE <- code`, nothing else (60_exceptions R191). -/
def raiseError (e : ErrCode) (s : State) : State := { s with err := true, ecode := errCode e }

/-- `RESET`: every register as 10_state R35 says, `DMEM` drawn afresh (44_host_access R167). The only exit from the halted
state (60_exceptions R192). The host's side of the run goes on. -/
def resetBlock (s : State) : State :=
  { State.reset with dmem := redraw s.dmem, pending := s.pending, returned := s.returned }

/-! ### The template of a command -/

/-- The first precondition in the list that does not hold, by its error: 60_exceptions R190. -/
def firstViolation : List (Bool × ErrCode) → Option ErrCode
  | [] => none
  | (ok, e) :: rest => if ok then firstViolation rest else some e

/-- The template of every command (40_round_primitives R102, 41_key_schedule R128, 42_block_transform R141, 43_ecb R157):
ignored when `ERR = 1` (44_host_access R168); else the first failing precondition raises its error and nothing else changes;
else the effect. -/
def command (pre : List (Bool × ErrCode)) (effect : State → State) (s : State) :
    Host.Outcome State Fault Refusal :=
  if s.err then .next s
  else match firstViolation pre with
    | some e => .next (raiseError e s)
    | none => .next (effect s)

end Sys2Proof.Machine
end

