-- ==== Sys2Proof/Machine/KeySchedule.lean ====
section
/-! DEFINITION. The pure key schedule, 41_key_schedule R122, R124. -/

namespace Sys2Proof.Machine

/-- The default dataflow of `KeyMix` (41_key_schedule R122): words 1 and 3 of the chunk through `SubWord`, each also
through `RotWord` with the constant in the byte of lowest index; words 0 and 2 do not enter the result. -/
def keyMixAssist (sbox : Byte → Byte) (b : Block) (rc : Byte) : Block :=
  let t0 := sbox b[4]; let t1 := sbox b[5]; let t2 := sbox b[6]; let t3 := sbox b[7]
  let u0 := sbox b[12]; let u1 := sbox b[13]; let u2 := sbox b[14]; let u3 := sbox b[15]
  #v[t0, t1, t2, t3, t1 ^^^ rc, t2, t3, t0, u0, u1, u2, u3, u1 ^^^ rc, u2, u3, u0]

/-- The default `Chunk(k, i)`: the 16 bytes that start at key byte 4i, wrapping from byte 63 to byte 0
(41_key_schedule R120). -/
def cyclicChunk (k : MasterKey) (i : Fin 16) : Block :=
  Vector.ofFn fun m => k[(4 * i.val + m.val) % 64]

/-- `Expand(k)`: `K[i] = KeyMix(Chunk(k, i), RCON[i])` for i in 0..14, `K[15] = Chunk(k, 15)`
(41_key_schedule R124). DESIGN CHOICE (log entry 15): R125 adds, as derived, that `Expand` is not injective, which R120, R122
and R124 contradict at the defaults; the model follows R124, and its `Expand` is injective. -/
def expand (cfg : Config) (k : MasterKey) : RoundKeys :=
  Vector.ofFn fun i =>
    if h : i.val < 15 then cfg.keymix (cfg.chunk k i) (cfg.rcon ⟨i.val, h⟩) else cfg.chunk k i

end Sys2Proof.Machine
end

