-- ==== Sys2Proof/Machine/BlockCommands.lean ====
section
/-! DEFINITION. `KEXP` (41_key_schedule R128), `ENC` and `DEC` (42_block_transform R141, R142). -/

namespace Sys2Proof.Machine

/-- `KEXP` for any parameters: all sixteen round keys together, and `KV <- 1` (41_key_schedule R128). -/
def cmdKexp (cfg : Config) (s : State) : Host.Outcome State Fault Refusal :=
  command [(keyReady s, .keyLen)] (fun s => { s with rk := expand cfg s.key, kv := true }) s

/-- The template of `ENC` and `DEC`: `E_BLKLEN`, then `E_NOKEY`, then `BLK <- F(BLK, RK)` (42_block_transform R141, R142). -/
def blockCommand (f : Block → RoundKeys → Block) (s : State) : Host.Outcome State Fault Refusal :=
  command [(blkReady s, .blkLen), (s.kv, .noKey)] (fun s => { s with blk := f s.blk s.rk }) s

/-- `ENC` for any parameters (42_block_transform R141). -/
def cmdEnc (cfg : Config) (s : State) : Host.Outcome State Fault Refusal := blockCommand (encrypt cfg) s

/-- `DEC` for any parameters (42_block_transform R142). -/
def cmdDec (cfg : Config) (s : State) : Host.Outcome State Fault Refusal := blockCommand (decrypt cfg) s

/-- `KEXP` (41_key_schedule R128). -/
def execKexp (s : State) : Host.Outcome State Fault Refusal := cmdKexp aes512 s

/-- `ENC` (42_block_transform R141). -/
def execEnc (s : State) : Host.Outcome State Fault Refusal := cmdEnc aes512 s

/-- `DEC` (42_block_transform R142). -/
def execDec (s : State) : Host.Outcome State Fault Refusal := cmdDec aes512 s

end Sys2Proof.Machine
end

