-- ==== Sys2Proof/Machine/EcbCommands.lean ====
section
/-! DEFINITION. The ECB commands, 43_ecb R155 to R159. -/

namespace Sys2Proof.Machine

/-- The first n passes of the block loop, j ascending: read block `SRC + j`, transform it, write block `DST + j`
(43_ecb R157, R161). -/
def ecbLoop (f : Block → Block) (src dst : Nat) : Nat → Memory → Memory
  | 0, m => m
  | n + 1, m =>
    let m' := ecbLoop f src dst n m
    memWrite m' (dst + n) (f (memRead m' (src + n)))

/-- The effect of an admitted ECB command: the loop over `COUNT` blocks; only `DMEM` is written (43_ecb R157, R158). -/
def ecbEffect (f : Block → RoundKeys → Block) (s : State) : State :=
  { s with dmem := ecbLoop (fun b => f b s.rk) (srcIndex s) (dstIndex s) (blockCount s) s.dmem }

/-- The template of the ECB commands: the preconditions of 43_ecb R156 in their order, then the effect
(43_ecb R157, R159). `BLK` is not used (43_ecb R158). -/
def ecbCommand (cfg : Config) (f : Block → RoundKeys → Block) (s : State) : Host.Outcome State Fault Refusal :=
  command [(s.kv, .noKey), (!ecbOutOfRange cfg s, .range), (!ecbOverlaps s, .overlap)]
    (ecbEffect f) s

/-- `ECBENC` for any parameters (43_ecb R157). -/
def cmdEcbenc (cfg : Config) (s : State) : Host.Outcome State Fault Refusal := ecbCommand cfg (encrypt cfg) s

/-- `ECBDEC` for any parameters (43_ecb R159). -/
def cmdEcbdec (cfg : Config) (s : State) : Host.Outcome State Fault Refusal := ecbCommand cfg (decrypt cfg) s

/-- `ECBENC` (43_ecb R157). -/
def execEcbenc (s : State) : Host.Outcome State Fault Refusal := cmdEcbenc aes512 s

/-- `ECBDEC` (43_ecb R159). -/
def execEcbdec (s : State) : Host.Outcome State Fault Refusal := cmdEcbdec aes512 s

end Sys2Proof.Machine
end

