-- ==== Sys2Proof/Machine/StepCommands.lean ====
section
/-! DEFINITION. The step commands `SUB SHR MIX ARK ISUB ISHR IMIX`, 40_round_primitives R102 to R109. A `cmd` definition is the
command for any parameters, an `exec` definition the command with the default parameters of 00_scope R9. -/

namespace Sys2Proof.Machine

/-- The template of 40_round_primitives R102 for a command that needs no key: `BLK <- F(BLK)`. -/
def stepCommand (f : Block → Block) (s : State) : Host.Outcome State Fault Refusal :=
  command [(blkReady s, .blkLen)] (fun s => { s with blk := f s.blk }) s

/-- `SUB` (40_round_primitives R103). -/
def cmdSub (cfg : Config) (s : State) : Host.Outcome State Fault Refusal := stepCommand (subBytes cfg) s

/-- `SHR` (40_round_primitives R104). -/
def cmdShr (cfg : Config) (s : State) : Host.Outcome State Fault Refusal := stepCommand (shiftRows cfg) s

/-- `MIX` (40_round_primitives R105). -/
def cmdMix (cfg : Config) (s : State) : Host.Outcome State Fault Refusal := stepCommand (mixColumns cfg) s

/-- `ISUB` (40_round_primitives R107). -/
def cmdIsub (cfg : Config) (s : State) : Host.Outcome State Fault Refusal := stepCommand (invSubBytes cfg) s

/-- `ISHR` (40_round_primitives R108). -/
def cmdIshr (cfg : Config) (s : State) : Host.Outcome State Fault Refusal := stepCommand (invShiftRows cfg) s

/-- `IMIX` (40_round_primitives R109). -/
def cmdImix (cfg : Config) (s : State) : Host.Outcome State Fault Refusal := stepCommand (invMixColumns cfg) s

/-- `ARK r` (40_round_primitives R106), with the extra precondition `KV = 1`. -/
def cmdArk (r : Fin 16) (s : State) : Host.Outcome State Fault Refusal :=
  command [(blkReady s, .blkLen), (s.kv, .noKey)]
    (fun s => { s with blk := addRoundKey s.blk s.rk[r] }) s

/-- `SUB` (40_round_primitives R103). -/
def execSub (s : State) : Host.Outcome State Fault Refusal := cmdSub aes512 s

/-- `SHR` (40_round_primitives R104). -/
def execShr (s : State) : Host.Outcome State Fault Refusal := cmdShr aes512 s

/-- `MIX` (40_round_primitives R105). -/
def execMix (s : State) : Host.Outcome State Fault Refusal := cmdMix aes512 s

/-- `ARK r` (40_round_primitives R106). -/
def execArk (r : Fin 16) (s : State) : Host.Outcome State Fault Refusal := cmdArk r s

/-- `ISUB` (40_round_primitives R107). -/
def execIsub (s : State) : Host.Outcome State Fault Refusal := cmdIsub aes512 s

/-- `ISHR` (40_round_primitives R108). -/
def execIshr (s : State) : Host.Outcome State Fault Refusal := cmdIshr aes512 s

/-- `IMIX` (40_round_primitives R109). -/
def execImix (s : State) : Host.Outcome State Fault Refusal := cmdImix aes512 s

end Sys2Proof.Machine
end

