-- ==== Sys2Proof/Syntax.lean ====
section
/-! DEFINITION. The twelve commands of 30_encoding R72, one constructor per row of spec/opcode_table.json.
The host's steps `WR`, `RD`, `RESET` are not words and have no opcode (30_encoding R75): they are
`Machine.HostStep` in Machine/State.lean. -/

namespace Sys2Proof

/-- A command (30_encoding R70, R72). Only `ARK` has an operand in its word, the round index 0 to 15, every
value of which is legal (30_encoding R71): `Fin 16` is exactly that range. -/
inductive Instr where
  /-- `RK <- Expand(KEY)`, `KV <- 1` (41_key_schedule R128). -/
  | kexp
  /-- `BLK <- Encrypt(BLK, RK)` (42_block_transform R141). -/
  | enc
  /-- `BLK <- Decrypt(BLK, RK)` (42_block_transform R142). -/
  | dec
  /-- `COUNT` blocks from `SRC` encrypted to `DST` (43_ecb R157). -/
  | ecbenc
  /-- `COUNT` blocks from `SRC` decrypted to `DST` (43_ecb R159). -/
  | ecbdec
  /-- `BLK <- SubBytes(BLK)` (40_round_primitives R103). -/
  | sub
  /-- `BLK <- ShiftRows(BLK)` (40_round_primitives R104). -/
  | shr
  /-- `BLK <- MixColumns(BLK)` (40_round_primitives R105). -/
  | mix
  /-- `BLK <- AddRoundKey(BLK, RK[r])` (40_round_primitives R106). -/
  | ark (r : Fin 16)
  /-- `BLK <- InvSubBytes(BLK)` (40_round_primitives R107). -/
  | isub
  /-- `BLK <- InvShiftRows(BLK)` (40_round_primitives R108). -/
  | ishr
  /-- `BLK <- InvMixColumns(BLK)` (40_round_primitives R109). -/
  | imix
deriving DecidableEq, Repr

end Sys2Proof
end

