-- ==== Sys2Proof/WellFormed.lean ====
section
/-! DEFINITION. The three checks a command word must pass, on its fields: 30_encoding R70, R72, R73. -/

namespace Sys2Proof

/-- The one format, `CMD` (30_encoding R70): `OP` 7:0, `R` 11:8, `ZERO` 31:12. -/
structure CmdFields where
  op : BitVec 8
  r : BitVec 4
  zero : BitVec 20
deriving DecidableEq, Repr

/-- First test of 30_encoding R72: `ZERO` must be 0. -/
def CmdFields.zeroOk (f : CmdFields) : Bool := f.zero == 0#20

/-- Second test: `OP` is one of the twelve values. Written from 30_encoding R73, which lists the others: 0x00,
0x06, 0x07 and 0x0F to 0xFF are illegal. -/
def CmdFields.opOk (f : CmdFields) : Bool :=
  !(f.op == 0x00#8 || f.op == 0x06#8 || f.op == 0x07#8 || 0x0F ≤ f.op.toNat)

/-- Third test: `R` must be 0 unless `OP` is 0x0B, `ARK` (30_encoding R70, R72). -/
def CmdFields.roundOk (f : CmdFields) : Bool := f.op == 0x0B#8 || f.r == 0#4

/-- A legal command word passes the three tests (30_encoding R72). -/
def CmdFields.wf (f : CmdFields) : Bool := f.zeroOk && f.opOk && f.roundOk

end Sys2Proof
end

