-- ==== Sys2Proof/Decode.lean ====
section
/-! DEFINITION. Decoding a command word, and the encoder: 30_encoding R70 to R74. Decoding never depends on the
state (30_encoding R74). -/

namespace Sys2Proof

/-- Why a word is no command, by the test of 30_encoding R72 that it fails first. -/
inductive IllegalWord where
  /-- a bit of 31:12 is set -/
  | zeroField
  /-- `OP` is none of the twelve values -/
  | opcode
  /-- `R` is not 0 and the command is not `ARK` -/
  | roundField
deriving DecidableEq, Repr

/-- The fields of a command word (30_encoding R70). -/
def cmdFields (w : Word) : CmdFields :=
  { op := w.extractLsb' 0 8, r := w.extractLsb' 8 4, zero := w.extractLsb' 12 20 }

/-- The command an opcode names, with the round index for `ARK`: the `OP` column of 30_encoding R72. -/
def instrOfOp (op : BitVec 8) (r : BitVec 4) : Option Instr :=
  match op.toNat with
  | 0x01 => some .kexp
  | 0x02 => some .enc
  | 0x03 => some .dec
  | 0x04 => some .ecbenc
  | 0x05 => some .ecbdec
  | 0x08 => some .sub
  | 0x09 => some .shr
  | 0x0A => some .mix
  | 0x0B => some (.ark r.toFin)
  | 0x0C => some .isub
  | 0x0D => some .ishr
  | 0x0E => some .imix
  | _ => none

/-- The decoder of 30_encoding R72, its tests in the order given there. Total on every word; an illegal word is
refused by the name of the test it fails. -/
def decode (w : Word) : Except IllegalWord Instr :=
  let f := cmdFields w
  if f.zero ≠ 0#20 then .error .zeroField
  else match instrOfOp f.op f.r with
    | none => .error .opcode
    | some i => if f.r ≠ 0#4 ∧ f.op ≠ 0x0B#8 then .error .roundField else .ok i

/-- `decode`, with the reason dropped. -/
def decode? (w : Word) : Option Instr := (decode w).toOption

/-- The fields of each command's word: `OP` and `R` as 30_encoding R72 gives them, `ZERO` 0. -/
def instrFields : Instr → CmdFields
  | .kexp => ⟨0x01#8, 0#4, 0#20⟩
  | .enc => ⟨0x02#8, 0#4, 0#20⟩
  | .dec => ⟨0x03#8, 0#4, 0#20⟩
  | .ecbenc => ⟨0x04#8, 0#4, 0#20⟩
  | .ecbdec => ⟨0x05#8, 0#4, 0#20⟩
  | .sub => ⟨0x08#8, 0#4, 0#20⟩
  | .shr => ⟨0x09#8, 0#4, 0#20⟩
  | .mix => ⟨0x0A#8, 0#4, 0#20⟩
  | .ark r => ⟨0x0B#8, BitVec.ofFin r, 0#20⟩
  | .isub => ⟨0x0C#8, 0#4, 0#20⟩
  | .ishr => ⟨0x0D#8, 0#4, 0#20⟩
  | .imix => ⟨0x0E#8, 0#4, 0#20⟩

/-- The encoder: a command's word, from its fields (30_encoding R70). -/
def encode (i : Instr) : Word :=
  let f := instrFields i
  f.zero ++ f.r ++ f.op

/-- The `match` column of 30_encoding R72. -/
def instrMatch : Instr → Word
  | .kexp => 0x00000001#32
  | .enc => 0x00000002#32
  | .dec => 0x00000003#32
  | .ecbenc => 0x00000004#32
  | .ecbdec => 0x00000005#32
  | .sub => 0x00000008#32
  | .shr => 0x00000009#32
  | .mix => 0x0000000A#32
  | .ark _ => 0x0000000B#32
  | .isub => 0x0000000C#32
  | .ishr => 0x0000000D#32
  | .imix => 0x0000000E#32

/-- The `mask` column of 30_encoding R72. -/
def instrMask : Instr → Word
  | .kexp => 0xFFFFFFFF#32
  | .enc => 0xFFFFFFFF#32
  | .dec => 0xFFFFFFFF#32
  | .ecbenc => 0xFFFFFFFF#32
  | .ecbdec => 0xFFFFFFFF#32
  | .sub => 0xFFFFFFFF#32
  | .shr => 0xFFFFFFFF#32
  | .mix => 0xFFFFFFFF#32
  | .ark _ => 0xFFFFF0FF#32
  | .isub => 0xFFFFFFFF#32
  | .ishr => 0xFFFFFFFF#32
  | .imix => 0xFFFFFFFF#32

/-- What the decoder reads from a word of the opcode table. A command is one 32-bit word (30_encoding R70), a value
written to `CMD` and not stored bytes; bits at or above `nbits` are 0. -/
def decodeTableWord (nbits w : Nat) : Option Instr :=
  if nbits ≤ 32 then decode? (BitVec.ofNat 32 (w % 2 ^ nbits)) else none

end Sys2Proof
end

