-- ==== Sys2Proof/Machine/HostSteps.lean ====
section
/-! DEFINITION. The host's steps, 44_host_access R165 to R169, and how the next one is taken. Each takes the parameters and the
command executor as arguments, so that one text serves the default machine and any other configuration. -/

namespace Sys2Proof.Machine

/-- `RD(off)`: the word returned, by cases on the register map (44_host_access R166). `CMD`, an unmapped offset and a misaligned
one read 0. -/
def hostRead (cfg : Config) (off : Word) (s : State) : Word :=
  match regAt cfg.nblk off with
  | .status => statusWord s
  | .src => s.src
  | .dst => s.dst
  | .count => s.count
  | .blkw j => blkWord s j
  | .keyw i => keyWord s i
  | .rkw n => rkWord s n
  | .dmemw n => readMemWord s.dmem n
  | .cmd => 0#32
  | .misaligned => 0#32
  | .unmapped => 0#32

/-- A write to `CMD`: an illegal word raises `E_ILLCMD`, a legal one runs the command it names (44_host_access R169). -/
def writeCmd (run : Instr → State → Host.Outcome State Fault Refusal) (v : Word) (s : State) :
    Host.Outcome State Fault Refusal :=
  match decode v with
  | .error _ => .next (raiseError .illCmd s)
  | .ok i => run i s

/-- `WR(off, v)`: ignored when halted, else by cases on the register map; a write to a misaligned, read-only or unmapped offset
raises `E_ADDR` (44_host_access R165, R168). -/
def hostWrite (cfg : Config) (run : Instr → State → Host.Outcome State Fault Refusal) (off v : Word)
    (s : State) : Host.Outcome State Fault Refusal :=
  if s.err then .next s
  else match regAt cfg.nblk off with
    | .misaligned => .next (raiseError .addr s)
    | .cmd => writeCmd run v s
    | .src => .next { s with src := v }
    | .dst => .next { s with dst := v }
    | .count => .next { s with count := v }
    | .blkw j => .next { s with blk := setWordAt s.blk j.val v, blkfill := setFill s.blkfill j.val }
    | .keyw i => .next { s with key := setWordAt s.key i.val v, keyfill := setFill s.keyfill i.val }
    | .dmemw n => .next { s with dmem := writeMemWord s.dmem n v }
    | .status => .next (raiseError .addr s)
    | .rkw _ => .next (raiseError .addr s)
    | .unmapped => .next (raiseError .addr s)

/-- One host step (00_scope R14). A read changes nothing of the block (20_memory R57); the word it returns is recorded. -/
def hostStep (cfg : Config) (run : Instr → State → Host.Outcome State Fault Refusal) (h : HostStep)
    (s : State) : Host.Outcome State Fault Refusal :=
  match h with
  | .wr off v => hostWrite cfg run off v s
  | .rd off => .next { s with returned := s.returned ++ [hostRead cfg off s] }
  | .reset => .next (resetBlock s)

/-- The machine's step: the host issues its next step. With none left the block is idle and holds its state
(60_exceptions R201; log entry 2). -/
def issueNext (cfg : Config) (run : Instr → State → Host.Outcome State Fault Refusal) (s : State) :
    Host.Outcome State Fault Refusal :=
  match s.pending with
  | [] => .next s
  | h :: rest => hostStep cfg run h { s with pending := rest }

/-- The next step the host issues is `h`; the steps already waiting follow it. -/
def issueFirst (h : HostStep) (s : State) : State := { s with pending := h :: s.pending }

end Sys2Proof.Machine
end

