-- ==== Sys2Proof/Machine/Step.lean ====
section
/-! DEFINITION. One step of the machine is one host step (00_scope R14). -/

namespace Sys2Proof.Machine

/-- One step, with the default parameters of 00_scope R9. -/
def step (s : State) : Host.Outcome State Fault Refusal := issueNext aes512 exec s

/-- The state whose next step is the host's write of the command word `w` to `CMD`, offset 0x000 (30_encoding R70,
44_host_access R169); bits at or above `nbits` are 0. It stands for the host's choice of its next step: nothing else changes,
and in the halted state the write is ignored like any other (log entry 10). -/
def State.withFetchWord (s : State) (nbits w : Nat) : State :=
  issueFirst (.wr 0x000#32 (BitVec.ofNat 32 (w % 2 ^ nbits))) s

end Sys2Proof.Machine
end

