-- ==== Sys2Proof/Machine/AnyConfig.lean ====
section
/-! DEFINITION. The same machine for any parameters (00_scope R9: a model takes each as a field of its configuration and may
quantify over it). Laws/AnyConfig.lean proves that at the default parameters it is `exec` and `step`. -/

namespace Sys2Proof.Machine

/-- One command, for any parameters (30_encoding R72). -/
def execWith (cfg : Config) (i : Instr) (s : State) : Host.Outcome State Fault Refusal :=
  match i with
  | .kexp => cmdKexp cfg s
  | .enc => cmdEnc cfg s
  | .dec => cmdDec cfg s
  | .ecbenc => cmdEcbenc cfg s
  | .ecbdec => cmdEcbdec cfg s
  | .sub => cmdSub cfg s
  | .shr => cmdShr cfg s
  | .mix => cmdMix cfg s
  | .ark r => cmdArk r s
  | .isub => cmdIsub cfg s
  | .ishr => cmdIshr cfg s
  | .imix => cmdImix cfg s

/-- One host step, for any parameters. -/
def stepWith (cfg : Config) (s : State) : Host.Outcome State Fault Refusal := issueNext cfg (execWith cfg) s

end Sys2Proof.Machine
end

