-- ==== Sys2Proof/Safety.lean ====
section
/-! DEFINITION. The terms claims are stated in: what may be assumed of the parameters (00_scope R9), what a run is, when its end
is successful (00_scope R14, R15), the invariant of the machine, the causes of the errors (60_exceptions R181). -/

namespace Sys2Proof

/-- What a claim may assume of the parameters (00_scope R9): `SBOX` is a bijection with inverse `INVSBOX` (40_round_primitives
R92, R93); `MIXMAT` and `INVMIXMAT` are inverse of one another in the field of `POLY`, which has degree 8 (R91, R99); `LAYOUT`
numbers the 16 places of the matrix (R90); `NBLK` is at least 1 and at most 2^27 (10_state R29). Nothing is assumed of `SHIFT`,
`CHUNK`, `RCON`, `KEYMIX`. -/
structure Config.Lawful (cfg : Config) : Prop where
  invSbox_sbox : ∀ a, cfg.invSbox (cfg.sbox a) = a
  sbox_invSbox : ∀ a, cfg.sbox (cfg.invSbox a) = a
  poly_degree : cfg.poly.getLsbD 8 = true
  invMix_mix : ∀ r k : Fin 4,
    Machine.gmul cfg.poly (cfg.invMixmat r 0) (cfg.mixmat 0 k) ^^^
      Machine.gmul cfg.poly (cfg.invMixmat r 1) (cfg.mixmat 1 k) ^^^
      Machine.gmul cfg.poly (cfg.invMixmat r 2) (cfg.mixmat 2 k) ^^^
      Machine.gmul cfg.poly (cfg.invMixmat r 3) (cfg.mixmat 3 k) = if r = k then 1#8 else 0#8
  mix_invMix : ∀ r k : Fin 4,
    Machine.gmul cfg.poly (cfg.mixmat r 0) (cfg.invMixmat 0 k) ^^^
      Machine.gmul cfg.poly (cfg.mixmat r 1) (cfg.invMixmat 1 k) ^^^
      Machine.gmul cfg.poly (cfg.mixmat r 2) (cfg.invMixmat 2 k) ^^^
      Machine.gmul cfg.poly (cfg.mixmat r 3) (cfg.invMixmat 3 k) = if r = k then 1#8 else 0#8
  byteAt_rowCol : ∀ i, cfg.byteAt (cfg.rowCol i).1 (cfg.rowCol i).2 = i
  rowCol_byteAt : ∀ r c, cfg.rowCol (cfg.byteAt r c) = (r, c)
  nblk_pos : 1 ≤ cfg.nblk
  nblk_le : cfg.nblk ≤ 2 ^ 27

namespace Machine

/-- The outcome of a step or a command. -/
abbrev Result := Host.Outcome State Fault Refusal

/-- Commands run one after the other. -/
def runCommands : List Instr → State → Result
  | [], s => .next s
  | i :: is, s =>
    match exec i s with
    | .next t => runCommands is t
    | .fault r => .fault r
    | .refused r => .refused r

/-- A run that ended in `s` ended successfully: `ERR = 0` in the end state (00_scope R14, R15). -/
abbrev Successful (s : State) : Prop := s.err = false

/-- The step-command sequence of 40_round_primitives R110 for `ENC`. -/
def encSteps : List Instr :=
  [.ark 0] ++ fullRounds.flatMap (fun r => [.sub, .shr, .mix, .ark r]) ++ [.sub, .shr, .ark 15]

/-- The step-command sequence of 40_round_primitives R110 for `DEC`. -/
def decSteps : List Instr :=
  [.ark 15] ++ fullRounds.reverse.flatMap (fun r => [.ishr, .isub, .ark r, .imix]) ++ [.ishr, .isub, .ark 0]

/-- The outcome of a step or command that raises an error: `ERR`, the code, and nothing else (60_exceptions R191). -/
abbrev raises (s : State) (code : BitVec 4) : Result := .next { s with err := true, ecode := code }

/-- The block `00 01 02 .. 0f` of the worked examples. -/
def countBlock : Block := Vector.ofFn fun i => BitVec.ofNat 8 i.val

/-- A step command that needs no key, as the template of 40_round_primitives R102 has it for the function `f`: ignored when
halted; `E_BLKLEN` when `BLK` is not fully supplied; else `BLK <- f(BLK)` and nothing else. -/
def StepCommandRule (i : Instr) (f : Block → Block) : Prop :=
  ∀ s : State,
    (s.err = true → exec i s = .next s) ∧
    (s.err = false → s.blkfill ≠ 0xF#4 → exec i s = raises s 3#4) ∧
    (s.err = false → s.blkfill = 0xF#4 → exec i s = .next { s with blk := f s.blk })

/-- When an ECB command is admitted (43_ecb R156), with `NBLK` blocks of memory. -/
def EcbAdmitted (nblk : Nat) (s : State) : Prop :=
  s.err = false ∧ s.kv = true ∧
    (0 < s.count.toNat → s.src.toNat + s.count.toNat ≤ nblk ∧ s.dst.toNat + s.count.toNat ≤ nblk ∧
      (s.src = s.dst ∨ s.src.toNat + s.count.toNat ≤ s.dst.toNat ∨ s.dst.toNat + s.count.toNat ≤ s.src.toNat))

/-- The sequence of n blocks of `DMEM` that begins at block index a (43_ecb R155). -/
def blocksAt (m : Memory) (a n : Nat) : List Block := (List.range n).map fun j => memRead m (a + j)

/-- The invariant of the machine. -/
structure Inv (s : State) : Prop where
  /-- `DMEM` keeps its canonical form (log entry 5). -/
  mem_wf : s.dmem.wf = true
  /-- Nothing is written outside the `16*NBLK` bytes (10_state R29). -/
  mem_inside : s.dmem.inside aes512.nblk = true
  /-- `ECODE` is 0 when `ERR = 0` (10_state R20). -/
  code_zero : s.err = false → s.ecode = 0#4
  /-- Codes 8 to 15 do not occur, and a raised code is not 0 (60_exceptions R181). -/
  code_range : s.err = true → 1 ≤ s.ecode.toNat ∧ s.ecode.toNat ≤ 7
  /-- When `KV = 1`, `RK = Expand(k)` for some key (10_state R26). -/
  keys_derived : s.kv = true → ∃ k : MasterKey, s.rk = expand aes512 k
  /-- When `KV = 0`, `RK` is as reset left it (10_state R25, R35). -/
  keys_absent : s.kv = false → s.rk = Vector.replicate 16 zeroBlock
  /-- `KEXP` succeeds only with a full key, and only reset clears a fill bit (10_state R24). -/
  keyfill_full : s.kv = true → s.keyfill = 0xFFFF#16
  /-- A key word never written since reset is 0 (10_state R35). -/
  key_unwritten : ∀ i : Fin 16, s.keyfill.getLsbD i.val = false → keyWord s i = 0#32
  /-- A block word never written since reset is 0 (10_state R22, R35). -/
  blk_unwritten : ∀ j : Fin 4, s.blkfill.getLsbD j.val = false → blkWord s j = 0#32

/-- What decides the course of a run: the flags, the ECB operands, the steps to come; neither key, round keys, block nor memory. -/
structure SameControl (s t : State) : Prop where
  keyfill : s.keyfill = t.keyfill
  kv : s.kv = t.kv
  blkfill : s.blkfill = t.blkfill
  src : s.src = t.src
  dst : s.dst = t.dst
  count : s.count = t.count
  err : s.err = t.err
  ecode : s.ecode = t.ecode
  pending : s.pending = t.pending

/-- The commands that read `BLK`: the "raised by" column of `E_BLKLEN` (60_exceptions R181). -/
def readsBlk : Instr → Bool
  | .enc | .dec | .sub | .shr | .mix | .ark _ | .isub | .ishr | .imix => true
  | .kexp | .ecbenc | .ecbdec => false

/-- The commands that read `RK`: the "raised by" column of `E_NOKEY` (60_exceptions R181). -/
def readsRk : Instr → Bool
  | .enc | .dec | .ark _ | .ecbenc | .ecbdec => true
  | .kexp | .sub | .shr | .mix | .isub | .ishr | .imix => false

/-- The ECB commands: the "raised by" column of `E_RANGE` and `E_OVERLAP` (60_exceptions R181). -/
def isEcb : Instr → Bool
  | .ecbenc | .ecbdec => true
  | .kexp | .enc | .dec | .sub | .shr | .mix | .ark _ | .isub | .ishr | .imix => false

/-- The codes 2 to 6 whose cause (60_exceptions R181) a command meets in a state, with `NBLK` blocks of memory. -/
def commandCauses (nblk : Nat) (i : Instr) (s : State) : List Nat :=
  let src := s.src.toNat
  let dst := s.dst.toNat
  let n := s.count.toNat
  (if i = .kexp ∧ s.keyfill ≠ 0xFFFF#16 then [2] else []) ++
  (if readsBlk i ∧ s.blkfill ≠ 0xF#4 then [3] else []) ++
  (if readsRk i ∧ s.kv = false then [4] else []) ++
  (if isEcb i ∧ 0 < n ∧ (nblk < src + n ∨ nblk < dst + n) then [5] else []) ++
  (if isEcb i ∧ 0 < n ∧ src ≠ dst ∧ max src dst - min src dst < n then [6] else [])

/-- The offsets other than `CMD` that a host may write: mapped, writable, word-aligned (10_state R31). -/
def writableOffset (nblk : Nat) (off : Nat) : Bool :=
  decide (off % 4 = 0 ∧
    (off = 0x008 ∨ off = 0x00C ∨ off = 0x010 ∨ (0x020 ≤ off ∧ off < 0x030) ∨
      (0x040 ≤ off ∧ off < 0x080) ∨ (0x1000 ≤ off ∧ off < 0x1000 + 16 * nblk)))

/-- The codes of 60_exceptions R181 whose cause a host step meets in a state. -/
def errorCauses (nblk : Nat) (h : HostStep) (s : State) : List Nat :=
  match h with
  | .reset => []
  | .rd _ => []
  | .wr off v =>
    if off = 0#32 then
      match decode v with
      | .error _ => [1]
      | .ok i => commandCauses nblk i s
    else if writableOffset nblk off.toNat then [] else [7]

end Machine

end Sys2Proof
end

