-- ==== Sys2Proof/Certificates/Slice0/Obligations.lean ====
section
/-! DEFINITION. The statements about the machine, from the numbered rules of spec/. A statement about `step` speaks of a state whose
next host step is given by `pending` (log entry 1). -/

open Sys2Proof Sys2Proof.Machine

/-! ### Encoding -/

/-- Words written out from 30_encoding R72 and R73 decode as the tables there say. -/
def Obligations.CommandWordsDecode : Prop :=
  decode 0x00000001#32 = .ok .kexp ∧ decode 0x00000002#32 = .ok .enc ∧ decode 0x00000003#32 = .ok .dec ∧
  decode 0x00000004#32 = .ok .ecbenc ∧ decode 0x00000005#32 = .ok .ecbdec ∧ decode 0x00000008#32 = .ok .sub ∧
  decode 0x0000000B#32 = .ok (.ark 0) ∧ decode 0x0000070B#32 = .ok (.ark 7) ∧ decode 0x00000F0B#32 = .ok (.ark 15) ∧
  decode 0x0000000E#32 = .ok .imix ∧ decode 0x00000000#32 = .error .opcode ∧ decode 0x00000108#32 = .error .roundField ∧
  decode 0x0000100B#32 = .error .zeroField

/-- Decoding and encoding agree: a word decodes to a command exactly when it is that command's word. So decoding the encoding of
every command, with every round index, gives it back, and no other word decodes to it. -/
def Obligations.DecodeIffEncode : Prop :=
  ∀ (i : Instr) (w : Word), decode w = .ok i ↔ w = encode i

/-- 30_encoding R72, but for its operation column (what each command does stands in the statements below): the mask and match of each
row, the words of `ARK r`, the three tests in their order, the 27 words. -/
def Obligations.LegalWordsByMaskAndMatch : Prop :=
  (∀ w : Word,
    (decode w = .ok .kexp ↔ w &&& 0xFFFFFFFF#32 = 0x00000001#32) ∧
    (decode w = .ok .enc ↔ w &&& 0xFFFFFFFF#32 = 0x00000002#32) ∧
    (decode w = .ok .dec ↔ w &&& 0xFFFFFFFF#32 = 0x00000003#32) ∧
    (decode w = .ok .ecbenc ↔ w &&& 0xFFFFFFFF#32 = 0x00000004#32) ∧
    (decode w = .ok .ecbdec ↔ w &&& 0xFFFFFFFF#32 = 0x00000005#32) ∧
    (decode w = .ok .sub ↔ w &&& 0xFFFFFFFF#32 = 0x00000008#32) ∧
    (decode w = .ok .shr ↔ w &&& 0xFFFFFFFF#32 = 0x00000009#32) ∧
    (decode w = .ok .mix ↔ w &&& 0xFFFFFFFF#32 = 0x0000000A#32) ∧
    ((∃ r, decode w = .ok (.ark r)) ↔ w &&& 0xFFFFF0FF#32 = 0x0000000B#32) ∧
    (decode w = .ok .isub ↔ w &&& 0xFFFFFFFF#32 = 0x0000000C#32) ∧
    (decode w = .ok .ishr ↔ w &&& 0xFFFFFFFF#32 = 0x0000000D#32) ∧
    (decode w = .ok .imix ↔ w &&& 0xFFFFFFFF#32 = 0x0000000E#32)) ∧
  (∀ r : Fin 16, decode (BitVec.ofNat 32 (0x0000000B + 0x100 * r.val)) = .ok (.ark r)) ∧
  (∀ w : Word, decode w = .error .zeroField ↔ w.toNat / 2 ^ 12 ≠ 0) ∧
  (∀ w : Word, decode w = .error .opcode ↔ w.toNat / 2 ^ 12 = 0 ∧
    w.toNat % 2 ^ 8 ∉ [0x01, 0x02, 0x03, 0x04, 0x05, 0x08, 0x09, 0x0A, 0x0B, 0x0C, 0x0D, 0x0E]) ∧
  (∀ w : Word, decode w = .error .roundField ↔ w.toNat / 2 ^ 12 = 0 ∧
    w.toNat % 2 ^ 8 ∈ [0x01, 0x02, 0x03, 0x04, 0x05, 0x08, 0x09, 0x0A, 0x0C, 0x0D, 0x0E] ∧
    w.toNat / 2 ^ 8 % 2 ^ 4 ≠ 0) ∧
  ∃ ws : List Word, ws.length = 27 ∧ ws.Nodup ∧ ∀ w, w ∈ ws ↔ ∃ i, decode w = .ok i

/-- 30_encoding R73, 60_exceptions R182: a write of an illegal word to `CMD` raises `E_ILLCMD` whatever else holds; nothing but `ERR`
and `ECODE` changes. -/
def Obligations.IllegalWordRaisesIllCmd : Prop :=
  ∀ (s : State) (w : Word) (rest : List HostStep), s.pending = .wr 0x000#32 w :: rest → s.err = false →
    (w.toNat / 2 ^ 12 ≠ 0 ∨
      w.toNat % 2 ^ 8 = 0x00 ∨ w.toNat % 2 ^ 8 = 0x06 ∨ w.toNat % 2 ^ 8 = 0x07 ∨ 0x0F ≤ w.toNat % 2 ^ 8 ∨
      (w.toNat % 2 ^ 8 ≠ 0x0B ∧ w.toNat / 2 ^ 8 % 2 ^ 4 ≠ 0)) →
    step s = raises { s with pending := rest } 1#4

/-- When the host's next step writes a word that decodes to `i` to `CMD`, the step is `exec i` on the state with that host step
taken off the list (in the halted state too, where `exec` ignores the command); so is the step of `withFetchWord`. -/
def Obligations.StepRunsDecodedCommand : Prop :=
  (∀ (s : State) (w : Word) (rest : List HostStep) (i : Instr), s.pending = .wr 0x000#32 w :: rest → decode w = .ok i →
    step s = exec i { s with pending := rest }) ∧
  (∀ (s : State) (i : Instr), step (s.withFetchWord 32 (encode i).toNat) = exec i s)

/-- 44_host_access R169: dispatch; and a command either completes with `ERR` still 0 or raises exactly one error and changes nothing
else. -/
def Obligations.DispatchRunsOneCommand : Prop :=
  ∀ (s : State) (w : Word) (rest : List HostStep), s.pending = .wr 0x000#32 w :: rest → s.err = false →
    ((¬∃ i, decode w = .ok i) → step s = raises { s with pending := rest } 1#4) ∧
    (∀ i, decode w = .ok i → step s = exec i { s with pending := rest } ∧
      ∃ t, step s = .next t ∧
        (t.err = false ∨ ∃ code : BitVec 4, 1#4 ≤ code ∧ code ≤ 7#4 ∧
          t = { s with pending := rest, err := true, ecode := code }))

/-! ### The byte field and the primitives -/

/-- 40_round_primitives R91, for every reduction polynomial: `gmul` is commutative and associative, distributes over exclusive-or, has
unit 1 and zero 0, is the sum it is defined as, and multiplies by 2, 3, 9, b, d, e as said; for 0x11B every nonzero byte has an inverse, and the examples. -/
def Obligations.GmulIsFieldMultiplication : Prop :=
  (∀ p : BitVec 9, ∀ a b c : Byte,
    gmul p a b = gmul p b a ∧ gmul p (gmul p a b) c = gmul p a (gmul p b c) ∧
    gmul p a (b ^^^ c) = gmul p a b ^^^ gmul p a c ∧ gmul p (a ^^^ b) c = gmul p a c ^^^ gmul p b c ∧
    gmul p a 0x01#8 = a ∧ gmul p a 0x00#8 = 0x00#8 ∧
    gmul p a b = ((List.range 8).filter fun i => b.getLsbD i).foldr (fun i x => xtimePow p i a ^^^ x) 0x00#8 ∧
    gmul p 0x02#8 a = xtime p a ∧ gmul p 0x03#8 a = xtime p a ^^^ a ∧
    gmul p 0x09#8 a = xtimePow p 3 a ^^^ a ∧ gmul p 0x0b#8 a = xtimePow p 3 a ^^^ xtime p a ^^^ a ∧
    gmul p 0x0d#8 a = xtimePow p 3 a ^^^ xtimePow p 2 a ^^^ a ∧
    gmul p 0x0e#8 a = xtimePow p 3 a ^^^ xtimePow p 2 a ^^^ xtime p a) ∧
  (∀ a : Byte, (xtime 0x11B#9 a).toNat = if a.toNat < 128 then 2 * a.toNat else (2 * a.toNat) ^^^ 0x11B) ∧
  (∀ a : Byte, a ≠ 0x00#8 → ∃ b, gmul 0x11B#9 a b = 0x01#8) ∧
  xtime 0x11B#9 0x80#8 = 0x1b#8 ∧ xtime 0x11B#9 0xff#8 = 0xe5#8 ∧
  gmul 0x11B#9 0x57#8 0x83#8 = 0xc1#8 ∧ gmul 0x11B#9 0x57#8 0x13#8 = 0xfe#8 ∧ gmul 0x11B#9 0x02#8 0x87#8 = 0x15#8 ∧
  gmul 0x11B#9 0x03#8 0x6e#8 = 0xb2#8 ∧ gmul 0x11B#9 0x09#8 0xff#8 = 0x46#8 ∧ gmul 0x11B#9 0x0b#8 0x80#8 = 0xf7#8 ∧
  gmul 0x11B#9 0x0d#8 0x1b#8 = 0xaf#8

/-- 40_round_primitives R92: the S-box table is the one the formula gives, `t ^ rotl(t,1) ^ .. ^ rotl(t,4) ^ 0x63` with `t` the inverse of
`a` (0 for 0), and it is a permutation; that `INVSBOX` inverts it is R93, which the spec derives from R92. -/
def Obligations.SboxIsAffineInverse : Prop :=
  ∀ a : Byte,
    (∃ t : Byte, (if a = 0x00#8 then t = 0x00#8 else gmul aes512.poly a t = 0x01#8) ∧
      aes512.sbox a = t ^^^ t.rotateLeft 1 ^^^ t.rotateLeft 2 ^^^ t.rotateLeft 3 ^^^ t.rotateLeft 4 ^^^ 0x63#8) ∧
    aes512.invSbox (aes512.sbox a) = a ∧ aes512.sbox (aes512.invSbox a) = a

/-- 40_round_primitives R94, R96, R98, R100, byte by byte, with the blocks written out there. -/
def Obligations.ForwardPrimitivesByByte : Prop :=
  (∀ (b k : Block) (i : Fin 16), (subBytes aes512 b)[i] = aes512.sbox b[i] ∧ (addRoundKey b k)[i] = b[i] ^^^ k[i]) ∧
  (∀ b k : Block, addRoundKey (addRoundKey b k) k = b) ∧
  (∀ b : Block, shiftRows aes512 b =
    #v[b[0], b[5], b[10], b[15], b[4], b[9], b[14], b[3], b[8], b[13], b[2], b[7], b[12], b[1], b[6], b[11]]) ∧
  (∀ (b : Block) (r c : Fin 4), (shiftRows aes512 b)[r.val + 4 * c.val] = b[r.val + 4 * ((c.val + r.val) % 4)]) ∧
  (∀ (b : Block) (c : Fin 4),
    let a0 := b[4 * c.val]; let a1 := b[4 * c.val + 1]; let a2 := b[4 * c.val + 2]; let a3 := b[4 * c.val + 3]
    let g := gmul 0x11B#9
    (mixColumns aes512 b)[4 * c.val] = g 2 a0 ^^^ g 3 a1 ^^^ a2 ^^^ a3 ∧
    (mixColumns aes512 b)[4 * c.val + 1] = a0 ^^^ g 2 a1 ^^^ g 3 a2 ^^^ a3 ∧
    (mixColumns aes512 b)[4 * c.val + 2] = a0 ^^^ a1 ^^^ g 2 a2 ^^^ g 3 a3 ∧
    (mixColumns aes512 b)[4 * c.val + 3] = g 3 a0 ^^^ a1 ^^^ a2 ^^^ g 2 a3) ∧
  subBytes aes512 countBlock = #v[0x63#8, 0x7c#8, 0x77#8, 0x7b#8, 0xf2#8, 0x6b#8, 0x6f#8, 0xc5#8, 0x30#8, 0x01#8, 0x67#8, 0x2b#8,
    0xfe#8, 0xd7#8, 0xab#8, 0x76#8] ∧
  mixColumns aes512 countBlock = #v[0x02#8, 0x07#8, 0x00#8, 0x05#8, 0x06#8, 0x03#8, 0x04#8, 0x01#8, 0x0a#8, 0x0f#8, 0x08#8, 0x0d#8,
    0x0e#8, 0x0b#8, 0x0c#8, 0x09#8] ∧
  mixColumns aes512 #v[0xdb#8, 0x13#8, 0x53#8, 0x45#8, 0xf2#8, 0x0a#8, 0x22#8, 0x5c#8, 0xd4#8, 0xd4#8, 0xd4#8, 0xd5#8, 0x2d#8, 0x26#8,
    0x31#8, 0x4c#8] = #v[0x8e#8, 0x4d#8, 0xa1#8, 0xbc#8, 0x9f#8, 0xdc#8, 0x58#8, 0x9d#8, 0xd5#8, 0xd5#8, 0xd7#8, 0xd6#8, 0x4d#8, 0x7e#8,
    0xbd#8, 0xf8#8] ∧
  mixColumns aes512 #v[0x01#8, 0x00#8, 0x00#8, 0x00#8, 0xff#8, 0x00#8, 0x00#8, 0x00#8, 0xc6#8, 0xc6#8, 0xc6#8, 0xc6#8, 0x00#8, 0x00#8,
    0x00#8, 0x00#8] = #v[0x02#8, 0x01#8, 0x01#8, 0x03#8, 0xe5#8, 0xff#8, 0xff#8, 0x1a#8, 0xc6#8, 0xc6#8, 0xc6#8, 0xc6#8, 0x00#8, 0x00#8,
    0x00#8, 0x00#8]

/-- 40_round_primitives R95, R97, R99: the inverse primitives byte by byte, and, for all lawful parameters, that each inverts its
forward primitive on both sides. -/
def Obligations.InversePrimitivesInvert : Prop :=
  (∀ (b : Block) (i : Fin 16), (invSubBytes aes512 b)[i] = aes512.invSbox b[i]) ∧
  (∀ (b : Block) (r c : Fin 4), (invShiftRows aes512 b)[r.val + 4 * c.val] = b[r.val + 4 * ((c.val + 4 - r.val) % 4)]) ∧
  (∀ (b : Block) (c : Fin 4),
    let a0 := b[4 * c.val]; let a1 := b[4 * c.val + 1]; let a2 := b[4 * c.val + 2]; let a3 := b[4 * c.val + 3]
    let g := gmul 0x11B#9
    (invMixColumns aes512 b)[4 * c.val] = g 0x0e a0 ^^^ g 0x0b a1 ^^^ g 0x0d a2 ^^^ g 0x09 a3 ∧
    (invMixColumns aes512 b)[4 * c.val + 1] = g 0x09 a0 ^^^ g 0x0e a1 ^^^ g 0x0b a2 ^^^ g 0x0d a3 ∧
    (invMixColumns aes512 b)[4 * c.val + 2] = g 0x0d a0 ^^^ g 0x09 a1 ^^^ g 0x0e a2 ^^^ g 0x0b a3 ∧
    (invMixColumns aes512 b)[4 * c.val + 3] = g 0x0b a0 ^^^ g 0x0d a1 ^^^ g 0x09 a2 ^^^ g 0x0e a3) ∧
  (∀ cfg : Config, cfg.Lawful → ∀ b : Block,
    invSubBytes cfg (subBytes cfg b) = b ∧ subBytes cfg (invSubBytes cfg b) = b ∧
    invShiftRows cfg (shiftRows cfg b) = b ∧ shiftRows cfg (invShiftRows cfg b) = b ∧
    invMixColumns cfg (mixColumns cfg b) = b ∧ mixColumns cfg (invMixColumns cfg b) = b)

/-- 40_round_primitives R101: substitution and row shift commute, and so do their inverses; the column mixings are linear; blocks of
one repeated byte are no special case. -/
def Obligations.PrimitivesCommuteAndAreLinear : Prop :=
  (∀ (cfg : Config) (b : Block),
    subBytes cfg (shiftRows cfg b) = shiftRows cfg (subBytes cfg b) ∧
    invSubBytes cfg (invShiftRows cfg b) = invShiftRows cfg (invSubBytes cfg b)) ∧
  (∀ (cfg : Config) (a b : Block),
    mixColumns cfg (addRoundKey a b) = addRoundKey (mixColumns cfg a) (mixColumns cfg b) ∧
    invMixColumns cfg (addRoundKey a b) = addRoundKey (invMixColumns cfg a) (invMixColumns cfg b)) ∧
  (∀ b : Block, shiftRows aes512 (shiftRows aes512 (shiftRows aes512 (shiftRows aes512 b))) = b) ∧
  (∀ v : Byte, mixColumns aes512 (Vector.replicate 16 v) = Vector.replicate 16 v)

/-- The default parameters meet what the spec says a claim may assume of them (00_scope R9). -/
def Obligations.DefaultsAreLawful : Prop := aes512.Lawful

/-! ### The key schedule -/

/-- 41_key_schedule R121: the fifteen round constants, and how each follows from the one before. -/
def Obligations.RoundConstantsArePowers : Prop :=
  (List.finRange 15).map aes512.rcon = [0x01#8, 0x02#8, 0x04#8, 0x08#8, 0x10#8, 0x20#8, 0x40#8, 0x80#8, 0x1b#8, 0x36#8, 0x6c#8,
    0xd8#8, 0xab#8, 0x4d#8, 0x9a#8] ∧
  ∀ i : Fin 14, aes512.rcon i.succ = xtime aes512.poly (aes512.rcon i.castSucc)

/-- 41_key_schedule R122: the dataflow of `KeyMix`, byte by byte; words 0 and 2 of the chunk do not enter the result, so it is not
injective. -/
def Obligations.KeyMixDataflow : Prop :=
  (∀ (b : Block) (rc : Byte),
    let t : Fin 4 → Byte := fun m => aes512.sbox b[4 + m.val]
    let u : Fin 4 → Byte := fun m => aes512.sbox b[12 + m.val]
    aes512.keymix b rc = #v[t 0, t 1, t 2, t 3, t 1 ^^^ rc, t 2, t 3, t 0, u 0, u 1, u 2, u 3, u 1 ^^^ rc, u 2, u 3, u 0]) ∧
  (∀ (b d : Block) (rc : Byte), (∀ i : Fin 16, i.val / 4 = 1 ∨ i.val / 4 = 3 → b[i] = d[i]) →
    aes512.keymix b rc = aes512.keymix d rc) ∧
  ¬∀ (b d : Block) (rc : Byte), aes512.keymix b rc = aes512.keymix d rc → b = d

/-- 41_key_schedule R120: the chunk windows; consecutive chunks overlap in 12 bytes; each key byte lies in exactly four chunks. -/
def Obligations.ChunksAreCyclicWindows : Prop :=
  (∀ (k : MasterKey) (i m : Fin 16), (aes512.chunk k i)[m] = k[(4 * i.val + m.val) % 64]) ∧
  (∀ (k : MasterKey) (i : Fin 15) (m : Fin 12),
    (aes512.chunk k i.succ)[m.val] = (aes512.chunk k i.castSucc)[m.val + 4]) ∧
  (∀ n : Fin 64, ((List.finRange 16).filter fun i => (List.finRange 16).any fun m => (4 * i.val + m.val) % 64 == n.val).length = 4)

/-- 41_key_schedule R124: `K[i] = KeyMix(Chunk(k, i), RCON[i])` for i in 0..14; `K[15]` is the raw key bytes 60..63, 0..11; and, with
the defaults, `K[i]` for i in 0..14 depends on key words i+1 and i+3 (mod 16) only. -/
def Obligations.ExpandUsesTwoKeyWords : Prop :=
  (∀ (cfg : Config) (k : MasterKey) (i : Fin 15),
    (expand cfg k)[i.val] = cfg.keymix (cfg.chunk k i.castSucc) (cfg.rcon i)) ∧
  (∀ (cfg : Config) (k : MasterKey), (expand cfg k)[15] = cfg.chunk k 15) ∧
  (∀ (k : MasterKey) (m : Fin 16), (expand aes512 k)[15][m] = k[(60 + m.val) % 64]) ∧
  (∀ (k k' : MasterKey) (i : Fin 15),
    (∀ n : Fin 64, n.val / 4 = (i.val + 1) % 16 ∨ n.val / 4 = (i.val + 3) % 16 → k[n] = k'[n]) →
    (expand aes512 k)[i.val] = (expand aes512 k')[i.val])

/-! ### The block transform -/

/-- 42_block_transform R136: the state `st r` after round r, from the whitening to the final round. -/
def Obligations.EncryptRunsTheRounds : Prop :=
  ∀ (cfg : Config) (b : Block) (K : RoundKeys) (st : Nat → Block),
    st 0 = addRoundKey b K[0] →
    (∀ r : Fin 16, 1 ≤ r.val → r.val ≤ 14 →
      st r.val = addRoundKey (mixColumns cfg (shiftRows cfg (subBytes cfg (st (r.val - 1))))) K[r]) →
    encrypt cfg b K = addRoundKey (shiftRows cfg (subBytes cfg (st 14))) K[15]

/-- 42_block_transform R137: `Decrypt` is the inverse rounds regrouped: the inverse final round under `K[15]`, the inverse full rounds
under `K[14]` down to `K[1]`, the whitening. -/
def Obligations.DecryptIsInverseRounds : Prop :=
  ∀ (cfg : Config) (b : Block) (K : RoundKeys),
    decrypt cfg b K =
      addRoundKey (fullRounds.reverse.foldl (fun s r => invFullRound cfg s K[r]) (invFinalRound cfg b K[15])) K[0]

/-- 42_block_transform R138: for all lawful parameters, every block and any sixteen round keys, each of `Encrypt` and `Decrypt` undoes
the other; and each round is undone by its inverse round (R135). -/
def Obligations.DecryptInvertsEncrypt : Prop :=
  ∀ cfg : Config, cfg.Lawful → ∀ (b : Block) (K : RoundKeys),
    decrypt cfg (encrypt cfg b K) K = b ∧ encrypt cfg (decrypt cfg b K) K = b ∧
    ∀ k : Block, invFullRound cfg (fullRound cfg b k) k = b ∧ invFinalRound cfg (finalRound cfg b k) k = b

/-- 43_ecb R150, R151: length, independence, concatenation, and, for all lawful parameters, the round trip of a sequence. -/
def Obligations.EcbFunctionsActBlockByBlock : Prop :=
  ∀ (cfg : Config) (K : RoundKeys) (A B : List Block),
    (encryptAll cfg B K).length = B.length ∧ (decryptAll cfg B K).length = B.length ∧
    (∀ j : Nat, (encryptAll cfg B K)[j]? = (B[j]?).map (encrypt cfg · K) ∧
      (decryptAll cfg B K)[j]? = (B[j]?).map (decrypt cfg · K)) ∧
    encryptAll cfg (A ++ B) K = encryptAll cfg A K ++ encryptAll cfg B K ∧
    decryptAll cfg (A ++ B) K = decryptAll cfg A K ++ decryptAll cfg B K ∧
    (cfg.Lawful → decryptAll cfg (encryptAll cfg B K) K = B)

/-! ### The commands -/

/-- 40_round_primitives R103, R105, R107, R108, R109, and R104 but for the law the spec derives there: the six step commands that need no
key, under the template of R102, their examples, and that each is undone by its inverse. -/
def Obligations.StepCommandsTransformBlk : Prop :=
  StepCommandRule .sub (subBytes aes512) ∧ StepCommandRule .shr (shiftRows aes512) ∧
  StepCommandRule .mix (mixColumns aes512) ∧ StepCommandRule .isub (invSubBytes aes512) ∧
  StepCommandRule .ishr (invShiftRows aes512) ∧ StepCommandRule .imix (invMixColumns aes512) ∧
  subBytes aes512 countBlock = #v[0x63#8, 0x7c#8, 0x77#8, 0x7b#8, 0xf2#8, 0x6b#8, 0x6f#8, 0xc5#8, 0x30#8, 0x01#8, 0x67#8, 0x2b#8,
    0xfe#8, 0xd7#8, 0xab#8, 0x76#8] ∧
  shiftRows aes512 countBlock = #v[0x00#8, 0x05#8, 0x0a#8, 0x0f#8, 0x04#8, 0x09#8, 0x0e#8, 0x03#8, 0x08#8, 0x0d#8, 0x02#8, 0x07#8,
    0x0c#8, 0x01#8, 0x06#8, 0x0b#8] ∧
  mixColumns aes512 countBlock = #v[0x02#8, 0x07#8, 0x00#8, 0x05#8, 0x06#8, 0x03#8, 0x04#8, 0x01#8, 0x0a#8, 0x0f#8, 0x08#8, 0x0d#8,
    0x0e#8, 0x0b#8, 0x0c#8, 0x09#8] ∧
  invSubBytes aes512 countBlock = #v[0x52#8, 0x09#8, 0x6a#8, 0xd5#8, 0x30#8, 0x36#8, 0xa5#8, 0x38#8, 0xbf#8, 0x40#8, 0xa3#8, 0x9e#8,
    0x81#8, 0xf3#8, 0xd7#8, 0xfb#8] ∧
  invShiftRows aes512 countBlock = #v[0x00#8, 0x0d#8, 0x0a#8, 0x07#8, 0x04#8, 0x01#8, 0x0e#8, 0x0b#8, 0x08#8, 0x05#8, 0x02#8, 0x0f#8,
    0x0c#8, 0x09#8, 0x06#8, 0x03#8] ∧
  invMixColumns aes512 countBlock = #v[0x0a#8, 0x0f#8, 0x08#8, 0x0d#8, 0x0e#8, 0x0b#8, 0x0c#8, 0x09#8, 0x02#8, 0x07#8, 0x00#8, 0x05#8,
    0x06#8, 0x03#8, 0x04#8, 0x01#8] ∧
  ∀ s : State, s.err = false → s.blkfill = 0xF#4 →
    runCommands [.sub, .isub] s = .next s ∧ runCommands [.isub, .sub] s = .next s ∧
    runCommands [.shr, .ishr] s = .next s ∧ runCommands [.mix, .imix] s = .next s

/-- 40_round_primitives R106: `ARK r` under the template of R102 with the extra precondition `KV = 1`, for every r. -/
def Obligations.ArkXorsRoundKey : Prop :=
  (∀ (r : Fin 16) (s : State),
    (s.err = true → exec (.ark r) s = .next s) ∧
    (s.err = false → s.blkfill ≠ 0xF#4 → exec (.ark r) s = raises s 3#4) ∧
    (s.err = false → s.blkfill = 0xF#4 → s.kv = false → exec (.ark r) s = raises s 4#4) ∧
    (s.err = false → s.blkfill = 0xF#4 → s.kv = true →
      (∃ b : Block, exec (.ark r) s = .next { s with blk := b } ∧ ∀ i : Fin 16, b[i] = s.blk[i] ^^^ s.rk[r][i]) ∧
      runCommands [.ark r, .ark r] s = .next s)) ∧
  addRoundKey zeroBlock (expand aes512 (Vector.replicate 64 0x00#8))[0] = #v[0x63#8, 0x63#8, 0x63#8, 0x63#8, 0x62#8, 0x63#8, 0x63#8,
    0x63#8, 0x63#8, 0x63#8, 0x63#8, 0x63#8, 0x62#8, 0x63#8, 0x63#8, 0x63#8]

/-- 41_key_schedule R128: `KEXP` writes `RK` and `KV` and nothing else, or raises `E_KEYLEN`, or is ignored when halted; with the example
of that rule as the host reads it. -/
def Obligations.KexpDerivesRoundKeys : Prop :=
  (∀ s : State,
    (s.err = true → exec .kexp s = .next s) ∧
    (s.err = false → s.keyfill ≠ 0xFFFF#16 → exec .kexp s = raises s 2#4) ∧
    (s.err = false → s.keyfill = 0xFFFF#16 → exec .kexp s = .next { s with rk := expand aes512 s.key, kv := true })) ∧
  ∃ t, exec .kexp { State.reset with keyfill := 0xFFFF#16 } = .next t ∧
    hostRead aes512 0x100#32 t = 0x63636363#32 ∧ hostRead aes512 0x104#32 t = 0x63636362#32 ∧
    hostRead aes512 0x1F0#32 t = 0x00000000#32 ∧ hostRead aes512 0x004#32 t = 0xFFFF0001#32

/-- 41_key_schedule R126: a second `KEXP` with an unchanged `KEY` changes nothing. -/
def Obligations.KexpTwiceIsKexpOnce : Prop :=
  ∀ s t : State, exec .kexp s = .next t → t.err = false → exec .kexp t = .next t

/-- 42_block_transform R141: `ENC`; its result does not depend on what `KEY` holds by then; with the example of that rule. -/
def Obligations.EncEncryptsBlk : Prop :=
  (∀ s : State,
    (s.err = true → exec .enc s = .next s) ∧
    (s.err = false → s.blkfill ≠ 0xF#4 → exec .enc s = raises s 3#4) ∧
    (s.err = false → s.blkfill = 0xF#4 → s.kv = false → exec .enc s = raises s 4#4) ∧
    (s.err = false → s.blkfill = 0xF#4 → s.kv = true → exec .enc s = .next { s with blk := encrypt aes512 s.blk s.rk } ∧
      ∀ (k : MasterKey) (f : BitVec 16), exec .enc { s with key := k, keyfill := f } =
        .next { s with key := k, keyfill := f, blk := encrypt aes512 s.blk s.rk })) ∧
  encrypt aes512 zeroBlock (expand aes512 (Vector.replicate 64 0x00#8)) = #v[0xe6#8, 0xff#8, 0x07#8, 0x9d#8, 0x3a#8, 0x68#8, 0x22#8,
    0x75#8, 0xe6#8, 0xff#8, 0x07#8, 0x9d#8, 0x3a#8, 0x68#8, 0x22#8, 0x75#8] ∧
  ∃ s : State, s.err = false ∧ s.blkfill = 0xF#4 ∧ s.kv = true ∧ runCommands [.enc, .enc] s ≠ .next s

/-- 42_block_transform R142: `DEC`, and that `ENC` then `DEC`, or `DEC` then `ENC`, restores the state; with the examples of that rule. -/
def Obligations.DecUndoesEnc : Prop :=
  (∀ s : State,
    (s.err = true → exec .dec s = .next s) ∧
    (s.err = false → s.blkfill ≠ 0xF#4 → exec .dec s = raises s 3#4) ∧
    (s.err = false → s.blkfill = 0xF#4 → s.kv = false → exec .dec s = raises s 4#4) ∧
    (s.err = false → s.blkfill = 0xF#4 → s.kv = true →
      exec .dec s = .next { s with blk := decrypt aes512 s.blk s.rk } ∧
      runCommands [.enc, .dec] s = .next s ∧ runCommands [.dec, .enc] s = .next s)) ∧
  decrypt aes512 #v[0xe6#8, 0xff#8, 0x07#8, 0x9d#8, 0x3a#8, 0x68#8, 0x22#8, 0x75#8, 0xe6#8, 0xff#8, 0x07#8, 0x9d#8, 0x3a#8, 0x68#8,
    0x22#8, 0x75#8] (expand aes512 (Vector.replicate 64 0x00#8)) = zeroBlock ∧
  decrypt aes512 zeroBlock (expand aes512 (Vector.replicate 64 0x00#8)) = #v[0x12#8, 0xca#8, 0xc7#8, 0x19#8, 0xd5#8, 0x0b#8, 0x8c#8,
    0x27#8, 0x12#8, 0xca#8, 0xc7#8, 0x19#8, 0xd5#8, 0x0b#8, 0x8c#8, 0x27#8]

/-- 40_round_primitives R110: the step commands in the order given there leave the same state as the single command, from every state
with `KV = 1` and `BLKFILL = 0xF` that is not halted. -/
def Obligations.StepCommandsComputeEncAndDec : Prop :=
  ∀ s : State, s.err = false → s.kv = true → s.blkfill = 0xF#4 →
    runCommands encSteps s = exec .enc s ∧ runCommands decSteps s = exec .dec s

/-- 43_ecb R156: the preconditions of the ECB commands in their order; `COUNT = 0` is admitted wherever `SRC` and `DST` point. -/
def Obligations.EcbPreconditionsInOrder : Prop :=
  ∀ i : Instr, i = .ecbenc ∨ i = .ecbdec → ∀ s : State, s.err = false →
    let src := s.src.toNat; let dst := s.dst.toNat; let n := s.count.toNat
    (s.kv = false → exec i s = raises s 4#4) ∧
    (s.kv = true → 0 < n → (src + n > aes512.nblk ∨ dst + n > aes512.nblk) → exec i s = raises s 5#4) ∧
    (s.kv = true → 0 < n → src + n ≤ aes512.nblk → dst + n ≤ aes512.nblk → src ≠ dst →
      max src dst - min src dst < n → exec i s = raises s 6#4) ∧
    (s.kv = true → n = 0 → exec i s = .next s)

/-- 43_ecb R157: an admitted `ECBENC` completes; only `DMEM` changes, only in the destination blocks, and those hold `EncryptAll` of the
source blocks as they were before the command. -/
def Obligations.EcbencEncryptsSequence : Prop :=
  ∀ s : State, EcbAdmitted aes512.nblk s →
    ∃ m : Memory, exec .ecbenc s = .next { s with dmem := m } ∧
      blocksAt m s.dst.toNat s.count.toNat = encryptAll aes512 (blocksAt s.dmem s.src.toNat s.count.toNat) s.rk ∧
      ∀ a : Nat, (a < 16 * s.dst.toNat ∨ 16 * (s.dst.toNat + s.count.toNat) ≤ a) → readByte m a = readByte s.dmem a

/-- 43_ecb R159: the same of `ECBDEC` and `DecryptAll`. -/
def Obligations.EcbdecDecryptsSequence : Prop :=
  ∀ s : State, EcbAdmitted aes512.nblk s →
    ∃ m : Memory, exec .ecbdec s = .next { s with dmem := m } ∧
      blocksAt m s.dst.toNat s.count.toNat = decryptAll aes512 (blocksAt s.dmem s.src.toNat s.count.toNat) s.rk ∧
      ∀ a : Nat, (a < 16 * s.dst.toNat ∨ 16 * (s.dst.toNat + s.count.toNat) ≤ a) → readByte m a = readByte s.dmem a

/-- 43_ecb R159, for all lawful parameters and every `NBLK`: `ECBENC` from `SRC` to `DST`, then `ECBDEC` from there to any place, with the
same `COUNT` and round keys, reproduces the original blocks. -/
def Obligations.EcbRoundTripForAnyConfig : Prop :=
  ∀ cfg : Config, cfg.Lawful → ∀ (s t u : State) (place : Word),
    EcbAdmitted cfg.nblk s → execWith cfg .ecbenc s = .next t →
    EcbAdmitted cfg.nblk { t with src := s.dst, dst := place } →
    execWith cfg .ecbdec { t with src := s.dst, dst := place } = .next u →
    blocksAt u.dmem place.toNat s.count.toNat = blocksAt s.dmem s.src.toNat s.count.toNat

/-- 43_ecb R158: the ECB commands neither read nor write `BLK`, nor test or change `BLKFILL`. -/
def Obligations.EcbDoesNotUseBlk : Prop :=
  ∀ i : Instr, i = .ecbenc ∨ i = .ecbdec → ∀ s t : State, exec i s = .next t →
    t.blk = s.blk ∧ t.blkfill = s.blkfill ∧
    ∀ (b : Block) (f : BitVec 4), exec i { s with blk := b, blkfill := f } = .next { t with blk := b, blkfill := f }

/-- Which state a command may write (10_state R20, "written by"): none writes `KEY`, a fill mask, `SRC`, `DST` or `COUNT`; only `KEXP` writes
`RK` and `KV`; only the ECB commands write `DMEM`; `KEXP` and the ECB commands do not write `BLK`; and the host's side is untouched. -/
def Obligations.CommandsWriteOnlyTheirState : Prop :=
  ∀ (i : Instr) (s t : State), exec i s = .next t →
    t.key = s.key ∧ t.keyfill = s.keyfill ∧ t.blkfill = s.blkfill ∧ t.src = s.src ∧ t.dst = s.dst ∧ t.count = s.count ∧
    t.pending = s.pending ∧ t.returned = s.returned ∧
    (i ≠ .kexp → t.rk = s.rk ∧ t.kv = s.kv) ∧
    (isEcb i = false → t.dmem = s.dmem) ∧
    (i = .kexp ∨ isEcb i = true → t.blk = s.blk)

/-! ### Memory -/

/-- 20_memory R53: `MemRead` and `MemWrite`, byte by byte, and a read after a write of a block. -/
def Obligations.BlockMemoryReadsAndWrites : Prop :=
  ∀ (m : Memory) (a : Nat) (v : Block),
    (∀ i : Fin 16, (memRead m a)[i] = readByte m (16 * a + i.val)) ∧
    (∀ i : Fin 16, readByte (memWrite m a v) (16 * a + i.val) = v[i]) ∧
    (∀ x : Nat, (x < 16 * a ∨ 16 * a + 16 ≤ x) → readByte (memWrite m a v) x = readByte m x) ∧
    memRead (memWrite m a v) a = v ∧
    (∀ a' : Nat, a' ≠ a → memRead (memWrite m a v) a' = memRead m a')

/-- 20_memory R54: the host's data window, as two host steps see it: what a read returns, and what a write changes. -/
def Obligations.DataWindowReadsAndWrites : Prop :=
  ∀ (s : State) (n : Nat) (off : Word) (rest : List HostStep), n < 4 * aes512.nblk → off.toNat = 0x1000 + 4 * n →
    (s.pending = .rd off :: rest → ∃ w : Word,
      step s = .next { s with pending := rest, returned := s.returned ++ [w] } ∧
      w.toNat = (readByte s.dmem (4 * n)).toNat + 2 ^ 8 * (readByte s.dmem (4 * n + 1)).toNat +
        2 ^ 16 * (readByte s.dmem (4 * n + 2)).toNat + 2 ^ 24 * (readByte s.dmem (4 * n + 3)).toNat ∧
      w = wordAt (memRead s.dmem (n / 4)) (n % 4) (by omega)) ∧
    (∀ v : Word, s.pending = .wr off v :: rest → s.err = false → ∃ m : Memory,
      step s = .next { s with pending := rest, dmem := m } ∧
      (∀ k : Fin 4, readByte m (4 * n + k.val) = v.extractLsb' (8 * k.val) 8) ∧
      (∀ x : Nat, x / 4 ≠ n → readByte m x = readByte s.dmem x))

/-- 20_memory R60 (2): a read of the data window returns the most recent write to the same word, and a write to another word does not
disturb it. -/
def Obligations.ReadReturnsMostRecentWrite : Prop :=
  ∀ (s : State) (n n' : Nat) (off off' v : Word) (rest : List HostStep), s.err = false →
    n < 4 * aes512.nblk → off.toNat = 0x1000 + 4 * n → n' < 4 * aes512.nblk → off'.toNat = 0x1000 + 4 * n' →
    s.pending = .wr off v :: .rd off' :: rest →
    ∃ t u : State, step s = .next t ∧ step t = .next u ∧
      u.returned = s.returned ++ [if n' = n then v else readMemWord s.dmem n'] ∧ u.dmem = t.dmem ∧ u.pending = rest

/-- 00_scope R12, 20_memory R51: byte i of a block is bits 8i+7 to 8i of its 128-bit value, the four words, low word first, are that value,
and a write of 0x33221100 to `BLKW[0]` sets the bytes 00 11 22 33. -/
def Obligations.WordsAreLittleEndian : Prop :=
  (∀ (b : Block) (i : Fin 16), (laneValue b).extractLsb' (8 * i.val) 8 = b[i]) ∧
  (∀ (s : State) (j : Fin 4), (laneValue s.blk).extractLsb' (32 * j.val) 32 = blkWord s j) ∧
  (∀ (s : State) (rest : List HostStep), s.pending = .wr 0x020#32 0x33221100#32 :: rest → s.err = false →
    ∃ t, step s = .next t ∧ t.blk[0] = 0x00#8 ∧ t.blk[1] = 0x11#8 ∧ t.blk[2] = 0x22#8 ∧ t.blk[3] = 0x33#8)

/-! ### The host's steps -/

/-- 44_host_access R165: a host write, by its cases in their order. Each changes only what it names. -/
def Obligations.HostWriteByOffset : Prop :=
  ∀ (s : State) (off v : Word) (rest : List HostStep), s.pending = .wr off v :: rest →
    let o := off.toNat
    let u : State := { s with pending := rest }
    (s.err = true → step s = .next u) ∧
    (s.err = false →
      (o % 4 ≠ 0 → step s = raises u 7#4) ∧
      (o = 0x000 → (∀ i, decode v = .ok i → step s = exec i u) ∧ ((¬∃ i, decode v = .ok i) → step s = raises u 1#4)) ∧
      (o = 0x008 → step s = .next { u with src := v }) ∧
      (o = 0x00C → step s = .next { u with dst := v }) ∧
      (o = 0x010 → step s = .next { u with count := v }) ∧
      (∀ j : Fin 4, o = 0x020 + 4 * j.val → ∃ (b : Block) (f : BitVec 4), step s = .next { u with blk := b, blkfill := f } ∧
        (∀ i : Fin 16, b[i] = if i.val / 4 = j.val then v.extractLsb' (8 * (i.val % 4)) 8 else s.blk[i]) ∧
        (∀ k : Fin 4, f[k] = if k = j then true else s.blkfill[k])) ∧
      (∀ j : Fin 16, o = 0x040 + 4 * j.val → ∃ (k : MasterKey) (f : BitVec 16), step s = .next { u with key := k, keyfill := f } ∧
        (∀ i : Fin 64, k[i] = if i.val / 4 = j.val then v.extractLsb' (8 * (i.val % 4)) 8 else s.key[i]) ∧
        (∀ i : Fin 16, f[i] = if i = j then true else s.keyfill[i])) ∧
      (∀ n : Nat, n < 4 * aes512.nblk → o = 0x1000 + 4 * n → ∃ m : Memory, step s = .next { u with dmem := m } ∧
        (∀ x : Nat, readByte m x = if x / 4 = n then v.extractLsb' (8 * (x % 4)) 8 else readByte s.dmem x)) ∧
      (o = 0x004 ∨ (0x014 ≤ o ∧ o < 0x020) ∨ (0x030 ≤ o ∧ o < 0x040) ∨ (0x080 ≤ o ∧ o < 0x1000) ∨
        0x1000 + 16 * aes512.nblk ≤ o → step s = raises u 7#4))

/-- 44_host_access R166: a host read returns the word its offset names, whether or not `ERR = 1`, and changes nothing of the block. -/
def Obligations.HostReadByOffset : Prop :=
  ∀ (s : State) (off : Word) (rest : List HostStep), s.pending = .rd off :: rest →
    ∃ w : Word, step s = .next { s with pending := rest, returned := s.returned ++ [w] } ∧
      let o := off.toNat
      let le : Byte → Byte → Byte → Byte → Nat := fun b0 b1 b2 b3 =>
        b0.toNat + 2 ^ 8 * b1.toNat + 2 ^ 16 * b2.toNat + 2 ^ 24 * b3.toNat
      (o = 0x004 → w.toNat = s.kv.toNat + 2 * s.err.toNat + 16 * s.ecode.toNat + 256 * s.blkfill.toNat +
        65536 * s.keyfill.toNat) ∧
      (o = 0x008 → w = s.src) ∧ (o = 0x00C → w = s.dst) ∧ (o = 0x010 → w = s.count) ∧
      (∀ j : Fin 4, o = 0x020 + 4 * j.val →
        w.toNat = le s.blk[4 * j.val] s.blk[4 * j.val + 1] s.blk[4 * j.val + 2] s.blk[4 * j.val + 3]) ∧
      (∀ i : Fin 16, o = 0x040 + 4 * i.val →
        w.toNat = le s.key[4 * i.val] s.key[4 * i.val + 1] s.key[4 * i.val + 2] s.key[4 * i.val + 3]) ∧
      (∀ (r : Fin 16) (j : Fin 4), o = 0x100 + 16 * r.val + 4 * j.val →
        w.toNat = le s.rk[r][4 * j.val] s.rk[r][4 * j.val + 1] s.rk[r][4 * j.val + 2] s.rk[r][4 * j.val + 3]) ∧
      (∀ n : Nat, n < 4 * aes512.nblk → o = 0x1000 + 4 * n →
        w.toNat = le (readByte s.dmem (4 * n)) (readByte s.dmem (4 * n + 1)) (readByte s.dmem (4 * n + 2))
          (readByte s.dmem (4 * n + 3))) ∧
      (o % 4 ≠ 0 ∨ o = 0x000 ∨ (0x014 ≤ o ∧ o < 0x020) ∨ (0x030 ≤ o ∧ o < 0x040) ∨ (0x080 ≤ o ∧ o < 0x100) ∨
        (0x200 ≤ o ∧ o < 0x1000) ∨ 0x1000 + 16 * aes512.nblk ≤ o → w = 0x00000000#32)

/-- 10_state R30: `STATUS` field by field, read-only. -/
def Obligations.StatusPresentsTheFlags : Prop :=
  ∀ (s : State) (rest : List HostStep),
    (s.pending = .rd 0x004#32 :: rest → ∃ w : Word,
      step s = .next { s with pending := rest, returned := s.returned ++ [w] } ∧
      w[0] = s.kv ∧ w[1] = s.err ∧ w[2] = false ∧ w[3] = false ∧ w.extractLsb' 4 4 = s.ecode ∧
      w.extractLsb' 8 4 = s.blkfill ∧ w.extractLsb' 12 4 = 0x0#4 ∧ w.extractLsb' 16 16 = s.keyfill ∧
      w.toNat = s.kv.toNat + 2 * s.err.toNat + 16 * s.ecode.toNat + 256 * s.blkfill.toNat + 65536 * s.keyfill.toNat ∧
      (s.kv = true → s.err = false → s.ecode = 0#4 → s.blkfill = 0xF#4 → s.keyfill = 0xFFFF#16 → w = 0xFFFF0F01#32)) ∧
    (∀ v : Word, s.pending = .wr 0x004#32 v :: rest → s.err = false → step s = raises { s with pending := rest } 7#4) ∧
    statusWord State.reset = 0x00000000#32

/-- 10_state R28: every 32-bit value can be written to `SRC`, `DST`, `COUNT` and is read back unchanged; no command changes them, and only
the ECB commands depend on them. -/
def Obligations.EcbOperandRegisters : Prop :=
  (∀ (s : State) (off v : Word) (rest : List HostStep), off ∈ [0x008#32, 0x00C#32, 0x010#32] → s.err = false →
    s.pending = .wr off v :: .rd off :: rest →
    ∃ t u : State, step s = .next t ∧ step t = .next u ∧ u.returned = s.returned ++ [v] ∧ u.err = false ∧
      (off = 0x008#32 → u.src = v ∧ u.dst = s.dst ∧ u.count = s.count) ∧
      (off = 0x00C#32 → u.src = s.src ∧ u.dst = v ∧ u.count = s.count) ∧
      (off = 0x010#32 → u.src = s.src ∧ u.dst = s.dst ∧ u.count = v)) ∧
  (∀ (i : Instr) (s t : State), exec i s = .next t → t.src = s.src ∧ t.dst = s.dst ∧ t.count = s.count) ∧
  (∀ (i : Instr) (s t : State) (src dst count : Word), isEcb i = false → exec i s = .next t →
    exec i { s with src := src, dst := dst, count := count } = .next { t with src := src, dst := dst, count := count })

/-- 44_host_access R168: in the halted state a write has no effect at all, at every offset and of every value, and a read works as always:
it returns the word it would return if `ERR` were 0, but for `STATUS`, which shows `ERR`. -/
def Obligations.HaltedIgnoresWrites : Prop :=
  ∀ (s : State) (rest : List HostStep), s.err = true →
    (∀ off v : Word, s.pending = .wr off v :: rest → step s = .next { s with pending := rest }) ∧
    (∀ off : Word, s.pending = .rd off :: rest → ∃ w,
      step s = .next { s with pending := rest, returned := s.returned ++ [w] } ∧
      (off ≠ 0x004#32 → step { s with err := false } =
        .next { s with err := false, pending := rest, returned := s.returned ++ [w] }))

/-- 44_host_access R167, 10_state R35: what a `RESET` leaves, from every state, halted or not: every register 0, and no byte of `DMEM` that
was written before is still listed. That an unlisted byte reads a fresh free value, and that the host's side of the run goes on, are
the model's own (log entries 1, 3, 4). -/
def Obligations.ResetClearsEveryRegister : Prop :=
  ∀ (s : State) (rest : List HostStep), s.pending = .reset :: rest →
    ∃ t, step s = .next t ∧
      t.key = Vector.replicate 64 0x00#8 ∧ t.keyfill = 0x0000#16 ∧
      t.rk = Vector.replicate 16 (Vector.replicate 16 0x00#8) ∧ t.kv = false ∧
      t.blk = Vector.replicate 16 0x00#8 ∧ t.blkfill = 0x0#4 ∧ t.src = 0#32 ∧ t.dst = 0#32 ∧ t.count = 0#32 ∧
      t.err = false ∧ t.ecode = 0#4 ∧ statusWord t = 0x00000000#32 ∧
      (∀ a, readByte t.dmem a = Config.dmemDraw t.dmem.draw a) ∧ t.dmem.draw ≠ s.dmem.draw ∧
      t.pending = rest ∧ t.returned = s.returned

/-- 70_reset_and_hazards R211, 95_test_vectors 2.11: right after reset, and after every `RESET`, no command can succeed: `KEXP` raises
`E_KEYLEN`, the commands that use `BLK` raise `E_BLKLEN`, the ECB commands `E_NOKEY`. -/
def Obligations.AfterResetNoCommandSucceeds : Prop :=
  ∀ s : State, s = State.reset ∨ (∃ u, s = resetBlock u) → ∀ i : Instr,
    exec i s = raises s (if i = .kexp then 2#4 else if isEcb i then 4#4 else 3#4)

/-- The model's own reading of a run (log entries 1, 2, 3): a step takes exactly the first host step off the list, only a read adds to the
words returned, and with none left the machine holds its state. -/
def Obligations.StepTakesOneHostStep : Prop :=
  ∀ s : State,
    (s.pending = [] → step s = .next s) ∧
    ∀ t, step s = .next t → t.pending = s.pending.tail ∧
      ((∀ off rest, s.pending ≠ .rd off :: rest) → t.returned = s.returned) ∧
      (∀ off rest, s.pending = .rd off :: rest → t.toCoreState = s.toCoreState ∧ t.returned.length = s.returned.length + 1)

/-! ### Errors -/

/-- 00_scope R15: every host step has an outcome, and it is a next state. -/
def Obligations.EveryStepIsTotal : Prop := ∀ s : State, ∃ t, step s = .next t

/-- 60_exceptions R191: a step that raises an error writes `ERR` and `ECODE` and nothing else. -/
def Obligations.ErrorEntryWritesNothingElse : Prop :=
  ∀ s t : State, step s = .next t → s.err = false → t.err = true →
    t = { s with pending := s.pending.tail, err := true, ecode := t.ecode } ∧ 1 ≤ t.ecode.toNat ∧ t.ecode.toNat ≤ 7

/-- 60_exceptions R192: `RESET` is the only exit from the halted state, and every other step leaves the whole state of the block as it was,
the first error's code included; after `RESET` the key, the round keys, the block and the flags are reset. -/
def Obligations.OnlyResetLeavesHalted : Prop :=
  ∀ s t : State, step s = .next t → s.err = true →
    (s.pending.head? ≠ some .reset → t.toCoreState = s.toCoreState) ∧
    (s.pending.head? = some .reset → t.err = false ∧ t.ecode = 0#4 ∧ t.kv = false ∧ t.keyfill = 0x0000#16 ∧ t.blkfill = 0x0#4 ∧
      t.key = Vector.replicate 64 0x00#8 ∧ t.rk = Vector.replicate 16 (Vector.replicate 16 0x00#8) ∧
      t.blk = Vector.replicate 16 0x00#8)

/-- 60_exceptions R181 to R188, R190: from a state that is not halted a step raises the lowest code whose cause holds, and none when no cause
holds; in the halted state none is raised. -/
def Obligations.LowestCauseIsReported : Prop :=
  ∀ (s : State) (h : HostStep) (rest : List HostStep), s.pending = h :: rest →
    (s.err = false → ∃ t, step s = .next t ∧
      match (errorCauses aes512.nblk h s).min? with
      | some code => t = { s with pending := rest, err := true, ecode := BitVec.ofNat 4 code }
      | none => t.err = false) ∧
    (s.err = true → h ≠ .reset → ∃ t, step s = .next t ∧ t.err = true ∧ t.ecode = s.ecode)

/-! ### Whole-machine rules -/

/-- 10_state R25, R26: a step that changes `RK` or `KV` is a write of the word of `KEXP` to `CMD`, or a `RESET`; `KEXP` sets them from `KEY`
as it then is. -/
def Obligations.OnlyKexpWritesRoundKeys : Prop :=
  ∀ s t : State, step s = .next t → t.rk ≠ s.rk ∨ t.kv ≠ s.kv →
    (s.pending.head? = some (.wr 0x000#32 0x00000001#32) ∧ s.err = false ∧ s.keyfill = 0xFFFF#16 ∧
      t.rk = expand aes512 s.key ∧ t.kv = true) ∨
    (s.pending.head? = some .reset ∧ t.kv = false)

/-- The invariant holds at reset. -/
def Obligations.ResetMeetsInvariant : Prop := Inv State.reset

/-- Every step keeps the invariant: the memory's canonical form and range, `ECODE` against `ERR`, `RK = Expand(k)` when `KV = 1`, and the
fill masks against the words never written. -/
def Obligations.StepKeepsInvariant : Prop :=
  ∀ s t : State, Inv s → step s = .next t → Inv t

/-- 10_state R27, 60_exceptions R193: the course of a run does not depend on data. Two states that agree on the flags, the ECB operands and
the steps to come still agree on them after any number of steps, whatever their keys, round keys, blocks and memories. -/
def Obligations.ControlIsIndependentOfData : Prop :=
  ∀ (n : Nat) (s t s' t' : State), SameControl s t →
    Sys2Proof.core.run n s = .next s' → Sys2Proof.core.run n t = .next t' → SameControl s' t'
end

