-- ==== Sys2Proof/Laws/AnyConfig.lean ====
section
/-! SUPPORT. At the default parameters the machine for any parameters is `exec` and `step`. -/

namespace Sys2Proof.Machine

theorem execWith_default (i : Instr) (s : State) : execWith aes512 i s = exec i s := by
  cases i <;> rfl

theorem stepWith_default (s : State) : stepWith aes512 s = step s := by
  have h : execWith aes512 = exec := funext fun i => funext fun s => execWith_default i s
  rw [stepWith, step, h]

end Sys2Proof.Machine
end

