-- ==== Sys2Proof/Laws/Bytes.lean ====
section
/-! SUPPORT. What the word views read and write. -/

namespace Sys2Proof.Machine

/-- A word is the sum of its bytes, the first the least significant (00_scope R12). -/
theorem leWord_toNat (b0 b1 b2 b3 : Byte) :
    (leWord b0 b1 b2 b3).toNat = b0.toNat + 2 ^ 8 * b1.toNat + 2 ^ 16 * b2.toNat + 2 ^ 24 * b3.toNat := by
  have h0 := b0.isLt
  have h1 := b1.isLt
  have h2 := b2.isLt
  unfold leWord
  rw [BitVec.toNat_append, ← Nat.shiftLeft_add_eq_or_of_lt h0, BitVec.toNat_append,
    ← Nat.shiftLeft_add_eq_or_of_lt h1, BitVec.toNat_append, ← Nat.shiftLeft_add_eq_or_of_lt h2]
  simp only [Nat.shiftLeft_eq]
  omega

/-- Putting a word together from its own bytes gives the word back. -/
@[simp] theorem leWord_wordByte (v : Word) :
    leWord (wordByte v 0) (wordByte v 1) (wordByte v 2) (wordByte v 3) = v := by
  apply BitVec.eq_of_toNat_eq
  have := v.isLt
  rw [leWord_toNat]
  simp only [wordByte, BitVec.extractLsb'_toNat, Nat.shiftRight_eq_div_pow]
  omega

/-- The bytes of `setWordAt`: those of word j are the new word's, every other byte is kept. -/
@[simp] theorem getElem_setWordAt {n : Nat} (b : Vector Byte n) (j : Nat) (v : Word) (i : Nat) (h : i < n) :
    (setWordAt b j v)[i] = if i / 4 = j then wordByte v (i % 4) else b[i] := by
  simp [setWordAt]

/-- Reading back the word just written. -/
@[simp] theorem wordAt_setWordAt_same {n : Nat} (b : Vector Byte n) (j : Nat) (v : Word) (h : 4 * j + 3 < n) :
    wordAt (setWordAt b j v) j h = v := by
  have h1 : (4 * j + 1) / 4 = j := by omega
  have h2 : (4 * j + 2) / 4 = j := by omega
  have h3 : (4 * j + 3) / 4 = j := by omega
  have m1 : (4 * j + 1) % 4 = 1 := by omega
  have m2 : (4 * j + 2) % 4 = 2 := by omega
  have m3 : (4 * j + 3) % 4 = 3 := by omega
  simp [wordAt, h1, h2, h3, m1, m2, m3]

/-- Writing word j leaves every other word as it was. -/
theorem wordAt_setWordAt_other {n : Nat} (b : Vector Byte n) (j k : Nat) (v : Word) (h : 4 * k + 3 < n) (hjk : k ≠ j) :
    wordAt (setWordAt b j v) k h = wordAt b k h := by
  have h1 : (4 * k + 1) / 4 = k := by omega
  have h2 : (4 * k + 2) / 4 = k := by omega
  have h3 : (4 * k + 3) / 4 = k := by omega
  simp [wordAt, h1, h2, h3, hjk]

end Sys2Proof.Machine
end

