-- ==== Sys2Proof/Laws/State.lean ====
section
/-! SUPPORT. One lemma per field of State for each named update, so that no later proof unfolds one. A plain record update
`{ s with f := v }` needs none: simp reads its fields by itself. -/

namespace Sys2Proof.Machine

variable (s : State)

/-! ### `raiseError` -/

@[simp] theorem raiseError_key (e : ErrCode) : (raiseError e s).key = s.key := rfl
@[simp] theorem raiseError_keyfill (e : ErrCode) : (raiseError e s).keyfill = s.keyfill := rfl
@[simp] theorem raiseError_rk (e : ErrCode) : (raiseError e s).rk = s.rk := rfl
@[simp] theorem raiseError_kv (e : ErrCode) : (raiseError e s).kv = s.kv := rfl
@[simp] theorem raiseError_blk (e : ErrCode) : (raiseError e s).blk = s.blk := rfl
@[simp] theorem raiseError_blkfill (e : ErrCode) : (raiseError e s).blkfill = s.blkfill := rfl
@[simp] theorem raiseError_src (e : ErrCode) : (raiseError e s).src = s.src := rfl
@[simp] theorem raiseError_dst (e : ErrCode) : (raiseError e s).dst = s.dst := rfl
@[simp] theorem raiseError_count (e : ErrCode) : (raiseError e s).count = s.count := rfl
@[simp] theorem raiseError_err (e : ErrCode) : (raiseError e s).err = true := rfl
@[simp] theorem raiseError_ecode (e : ErrCode) : (raiseError e s).ecode = errCode e := rfl
@[simp] theorem raiseError_dmem (e : ErrCode) : (raiseError e s).dmem = s.dmem := rfl
@[simp] theorem raiseError_pending (e : ErrCode) : (raiseError e s).pending = s.pending := rfl
@[simp] theorem raiseError_returned (e : ErrCode) : (raiseError e s).returned = s.returned := rfl

/-! ### `resetBlock` -/

@[simp] theorem resetBlock_key : (resetBlock s).key = State.reset.key := rfl
@[simp] theorem resetBlock_keyfill : (resetBlock s).keyfill = State.reset.keyfill := rfl
@[simp] theorem resetBlock_rk : (resetBlock s).rk = State.reset.rk := rfl
@[simp] theorem resetBlock_kv : (resetBlock s).kv = State.reset.kv := rfl
@[simp] theorem resetBlock_blk : (resetBlock s).blk = State.reset.blk := rfl
@[simp] theorem resetBlock_blkfill : (resetBlock s).blkfill = State.reset.blkfill := rfl
@[simp] theorem resetBlock_src : (resetBlock s).src = State.reset.src := rfl
@[simp] theorem resetBlock_dst : (resetBlock s).dst = State.reset.dst := rfl
@[simp] theorem resetBlock_count : (resetBlock s).count = State.reset.count := rfl
@[simp] theorem resetBlock_err : (resetBlock s).err = State.reset.err := rfl
@[simp] theorem resetBlock_ecode : (resetBlock s).ecode = State.reset.ecode := rfl
@[simp] theorem resetBlock_dmem : (resetBlock s).dmem = redraw s.dmem := rfl
@[simp] theorem resetBlock_pending : (resetBlock s).pending = s.pending := rfl
@[simp] theorem resetBlock_returned : (resetBlock s).returned = s.returned := rfl

/-! ### `ecbEffect` -/

@[simp] theorem ecbEffect_key (f : Block → RoundKeys → Block) : (ecbEffect f s).key = s.key := rfl
@[simp] theorem ecbEffect_keyfill (f : Block → RoundKeys → Block) : (ecbEffect f s).keyfill = s.keyfill := rfl
@[simp] theorem ecbEffect_rk (f : Block → RoundKeys → Block) : (ecbEffect f s).rk = s.rk := rfl
@[simp] theorem ecbEffect_kv (f : Block → RoundKeys → Block) : (ecbEffect f s).kv = s.kv := rfl
@[simp] theorem ecbEffect_blk (f : Block → RoundKeys → Block) : (ecbEffect f s).blk = s.blk := rfl
@[simp] theorem ecbEffect_blkfill (f : Block → RoundKeys → Block) : (ecbEffect f s).blkfill = s.blkfill := rfl
@[simp] theorem ecbEffect_src (f : Block → RoundKeys → Block) : (ecbEffect f s).src = s.src := rfl
@[simp] theorem ecbEffect_dst (f : Block → RoundKeys → Block) : (ecbEffect f s).dst = s.dst := rfl
@[simp] theorem ecbEffect_count (f : Block → RoundKeys → Block) : (ecbEffect f s).count = s.count := rfl
@[simp] theorem ecbEffect_err (f : Block → RoundKeys → Block) : (ecbEffect f s).err = s.err := rfl
@[simp] theorem ecbEffect_ecode (f : Block → RoundKeys → Block) : (ecbEffect f s).ecode = s.ecode := rfl
@[simp] theorem ecbEffect_dmem (f : Block → RoundKeys → Block) : (ecbEffect f s).dmem = ecbLoop (fun b => f b s.rk) (srcIndex s) (dstIndex s) (blockCount s) s.dmem := rfl
@[simp] theorem ecbEffect_pending (f : Block → RoundKeys → Block) : (ecbEffect f s).pending = s.pending := rfl
@[simp] theorem ecbEffect_returned (f : Block → RoundKeys → Block) : (ecbEffect f s).returned = s.returned := rfl

/-! ### `issueFirst` -/

@[simp] theorem issueFirst_key (h : HostStep) : (issueFirst h s).key = s.key := rfl
@[simp] theorem issueFirst_keyfill (h : HostStep) : (issueFirst h s).keyfill = s.keyfill := rfl
@[simp] theorem issueFirst_rk (h : HostStep) : (issueFirst h s).rk = s.rk := rfl
@[simp] theorem issueFirst_kv (h : HostStep) : (issueFirst h s).kv = s.kv := rfl
@[simp] theorem issueFirst_blk (h : HostStep) : (issueFirst h s).blk = s.blk := rfl
@[simp] theorem issueFirst_blkfill (h : HostStep) : (issueFirst h s).blkfill = s.blkfill := rfl
@[simp] theorem issueFirst_src (h : HostStep) : (issueFirst h s).src = s.src := rfl
@[simp] theorem issueFirst_dst (h : HostStep) : (issueFirst h s).dst = s.dst := rfl
@[simp] theorem issueFirst_count (h : HostStep) : (issueFirst h s).count = s.count := rfl
@[simp] theorem issueFirst_err (h : HostStep) : (issueFirst h s).err = s.err := rfl
@[simp] theorem issueFirst_ecode (h : HostStep) : (issueFirst h s).ecode = s.ecode := rfl
@[simp] theorem issueFirst_dmem (h : HostStep) : (issueFirst h s).dmem = s.dmem := rfl
@[simp] theorem issueFirst_pending (h : HostStep) : (issueFirst h s).pending = h :: s.pending := rfl
@[simp] theorem issueFirst_returned (h : HostStep) : (issueFirst h s).returned = s.returned := rfl

/-! ### The reset state (10_state R35) -/

@[simp] theorem reset_key : State.reset.key = Vector.replicate 64 0x00#8 := rfl
@[simp] theorem reset_keyfill : State.reset.keyfill = 0x0000#16 := rfl
@[simp] theorem reset_rk : State.reset.rk = Vector.replicate 16 zeroBlock := rfl
@[simp] theorem reset_kv : State.reset.kv = false := rfl
@[simp] theorem reset_blk : State.reset.blk = zeroBlock := rfl
@[simp] theorem reset_blkfill : State.reset.blkfill = 0x0#4 := rfl
@[simp] theorem reset_src : State.reset.src = 0#32 := rfl
@[simp] theorem reset_dst : State.reset.dst = 0#32 := rfl
@[simp] theorem reset_count : State.reset.count = 0#32 := rfl
@[simp] theorem reset_err : State.reset.err = false := rfl
@[simp] theorem reset_ecode : State.reset.ecode = 0#4 := rfl
@[simp] theorem reset_dmem : State.reset.dmem = { cells := [], draw := 0 } := rfl
@[simp] theorem reset_pending : State.reset.pending = [] := rfl
@[simp] theorem reset_returned : State.reset.returned = [] := rfl

theorem withFetchWord_eq (nbits w : Nat) :
    s.withFetchWord nbits w = issueFirst (.wr 0x000#32 (BitVec.ofNat 32 (w % 2 ^ nbits))) s := rfl

end Sys2Proof.Machine
end

