-- ==== Sys2Proof/Laws/Commands.lean ====
section
/-! SUPPORT. What the command template can do, said once. -/

namespace Sys2Proof.Machine

/-- Everything a command can do: it is ignored in the halted state, or the first precondition that fails raises its error, or
every precondition holds and the effect takes place. -/
theorem command_cases (pre : List (Bool × ErrCode)) (effect : State → State) (s : State) :
    (s.err = true ∧ command pre effect s = .next s) ∨
    (s.err = false ∧ ∃ e, firstViolation pre = some e ∧ command pre effect s = .next (raiseError e s)) ∨
    (s.err = false ∧ firstViolation pre = none ∧ command pre effect s = .next (effect s)) := by
  cases h : s.err with
  | true => exact .inl ⟨rfl, by simp [command, h]⟩
  | false =>
    cases hv : firstViolation pre with
    | some e => exact .inr (.inl ⟨rfl, e, rfl, by simp [command, h, hv]⟩)
    | none => exact .inr (.inr ⟨rfl, rfl, by simp [command, h, hv]⟩)

/-- A command in the halted state changes nothing (44_host_access R168). -/
theorem command_halted {pre : List (Bool × ErrCode)} {effect : State → State} {s : State} (h : s.err = true) :
    command pre effect s = .next s := by
  simp [command, h]

/-- No precondition fails exactly when all hold. -/
theorem firstViolation_eq_none (pre : List (Bool × ErrCode)) :
    firstViolation pre = none ↔ ∀ p ∈ pre, p.1 = true := by
  induction pre with
  | nil => simp [firstViolation]
  | cons p rest ih =>
    obtain ⟨ok, e⟩ := p
    cases ok <;> simp [firstViolation, ih]

/-- A command whose preconditions hold has its effect. -/
theorem command_admitted {pre : List (Bool × ErrCode)} {effect : State → State} {s : State} (h : s.err = false)
    (hp : ∀ p ∈ pre, p.1 = true) : command pre effect s = .next (effect s) := by
  simp [command, h, (firstViolation_eq_none pre).2 hp]

/-- The codes are 1 to 7 (60_exceptions R181). -/
theorem errCode_range (e : ErrCode) : 1 ≤ (errCode e).toNat ∧ (errCode e).toNat ≤ 7 := by
  cases e <;> decide

/-! ### Each command as an instance of the template -/

theorem exec_kexp (s : State) : exec .kexp s =
    command [(keyReady s, .keyLen)] (fun s => { s with rk := expand aes512 s.key, kv := true }) s := rfl
theorem exec_enc (s : State) : exec .enc s =
    command [(blkReady s, .blkLen), (s.kv, .noKey)] (fun s => { s with blk := encrypt aes512 s.blk s.rk }) s := rfl
theorem exec_dec (s : State) : exec .dec s =
    command [(blkReady s, .blkLen), (s.kv, .noKey)] (fun s => { s with blk := decrypt aes512 s.blk s.rk }) s := rfl
theorem exec_ecbenc (s : State) : exec .ecbenc s =
    command [(s.kv, .noKey), (!ecbOutOfRange aes512 s, .range), (!ecbOverlaps s, .overlap)]
      (ecbEffect (encrypt aes512)) s := rfl
theorem exec_ecbdec (s : State) : exec .ecbdec s =
    command [(s.kv, .noKey), (!ecbOutOfRange aes512 s, .range), (!ecbOverlaps s, .overlap)]
      (ecbEffect (decrypt aes512)) s := rfl
theorem exec_sub (s : State) : exec .sub s =
    command [(blkReady s, .blkLen)] (fun s => { s with blk := subBytes aes512 s.blk }) s := rfl
theorem exec_shr (s : State) : exec .shr s =
    command [(blkReady s, .blkLen)] (fun s => { s with blk := shiftRows aes512 s.blk }) s := rfl
theorem exec_mix (s : State) : exec .mix s =
    command [(blkReady s, .blkLen)] (fun s => { s with blk := mixColumns aes512 s.blk }) s := rfl
theorem exec_ark (r : Fin 16) (s : State) : exec (.ark r) s =
    command [(blkReady s, .blkLen), (s.kv, .noKey)] (fun s => { s with blk := addRoundKey s.blk s.rk[r] }) s := rfl
theorem exec_isub (s : State) : exec .isub s =
    command [(blkReady s, .blkLen)] (fun s => { s with blk := invSubBytes aes512 s.blk }) s := rfl
theorem exec_ishr (s : State) : exec .ishr s =
    command [(blkReady s, .blkLen)] (fun s => { s with blk := invShiftRows aes512 s.blk }) s := rfl
theorem exec_imix (s : State) : exec .imix s =
    command [(blkReady s, .blkLen)] (fun s => { s with blk := invMixColumns aes512 s.blk }) s := rfl

/-- Every command is ignored in the halted state (44_host_access R168). -/
theorem exec_halted (i : Instr) {s : State} (h : s.err = true) : exec i s = .next s := by
  cases i <;> simp only [exec_kexp, exec_enc, exec_dec, exec_ecbenc, exec_ecbdec, exec_sub, exec_shr, exec_mix, exec_ark,
    exec_isub, exec_ishr, exec_imix, command_halted h]

/-! ### Everything a command can do -/

/-- What a command can do to the state, with what it needed. -/
inductive CommandResult (i : Instr) (s : State) : Host.Outcome State Fault Refusal → Prop where
  /-- ignored: the core is halted -/
  | halted (h : s.err = true) : CommandResult i s (.next s)
  /-- refused: a precondition failed, and nothing but the error is recorded -/
  | raised (h : s.err = false) (e : ErrCode) : CommandResult i s (.next (raiseError e s))
  /-- `BLK` transformed -/
  | block (h : s.err = false) (hb : s.blkfill = 0xF#4) (hi : i ≠ .kexp ∧ i ≠ .ecbenc ∧ i ≠ .ecbdec) (b : Block) :
      CommandResult i s (.next { s with blk := b })
  /-- round keys derived -/
  | keys (h : s.err = false) (hk : s.keyfill = 0xFFFF#16) (hi : i = .kexp) :
      CommandResult i s (.next { s with rk := expand aes512 s.key, kv := true })
  /-- a sequence of blocks transformed -/
  | ecb (h : s.err = false) (hk : s.kv = true) (hr : ecbOutOfRange aes512 s = false) (ho : ecbOverlaps s = false)
      (hi : i = .ecbenc ∨ i = .ecbdec) (f : Block → RoundKeys → Block) : CommandResult i s (.next (ecbEffect f s))

theorem blockEffect_result {i : Instr} {pre : List (Bool × ErrCode)} {s : State} (f : State → Block)
    (hpre : (blkReady s, ErrCode.blkLen) ∈ pre) (hi : i ≠ .kexp ∧ i ≠ .ecbenc ∧ i ≠ .ecbdec) :
    CommandResult i s (command pre (fun s => { s with blk := f s }) s) := by
  obtain ⟨h, he⟩ | ⟨h, e, -, he⟩ | ⟨h, hn, he⟩ := command_cases pre (fun s => { s with blk := f s }) s
  · exact he ▸ .halted h
  · exact he ▸ .raised h e
  · have := (firstViolation_eq_none pre).1 hn _ hpre
    exact he ▸ .block h (by simpa [blkReady] using this) hi _

theorem ecbCommand_result {i : Instr} {s : State} (hi : i = .ecbenc ∨ i = .ecbdec) (f : Block → RoundKeys → Block) :
    CommandResult i s (ecbCommand aes512 f s) := by
  unfold ecbCommand
  obtain ⟨h, he⟩ | ⟨h, e, -, he⟩ | ⟨h, hn, he⟩ := command_cases
    [(s.kv, .noKey), (!ecbOutOfRange aes512 s, .range), (!ecbOverlaps s, .overlap)] (ecbEffect f) s
  · exact he ▸ .halted h
  · exact he ▸ .raised h e
  · have hp := (firstViolation_eq_none _).1 hn
    simp at hp
    exact he ▸ .ecb h hp.1 hp.2.1 hp.2.2 hi f

/-- A command does one of the things `CommandResult` lists. -/
theorem exec_result (i : Instr) (s : State) : CommandResult i s (exec i s) := by
  cases i with
  | kexp =>
    rw [exec_kexp]
    obtain ⟨h, he⟩ | ⟨h, e, -, he⟩ | ⟨h, hn, he⟩ := command_cases [(keyReady s, .keyLen)]
      (fun s => { s with rk := expand aes512 s.key, kv := true }) s
    · exact he ▸ .halted h
    · exact he ▸ .raised h e
    · have := (firstViolation_eq_none _).1 hn
      exact he ▸ .keys h (by simpa [keyReady] using this) rfl
  | ecbenc => exact ecbCommand_result (.inl rfl) _
  | ecbdec => exact ecbCommand_result (.inr rfl) _
  | enc => exact blockEffect_result (fun s => encrypt aes512 s.blk s.rk) (by simp) (by simp)
  | dec => exact blockEffect_result (fun s => decrypt aes512 s.blk s.rk) (by simp) (by simp)
  | sub => exact blockEffect_result (fun s => subBytes aes512 s.blk) (by simp) (by simp)
  | shr => exact blockEffect_result (fun s => shiftRows aes512 s.blk) (by simp) (by simp)
  | mix => exact blockEffect_result (fun s => mixColumns aes512 s.blk) (by simp) (by simp)
  | ark r => exact blockEffect_result (fun s => addRoundKey s.blk s.rk[r]) (by simp) (by simp)
  | isub => exact blockEffect_result (fun s => invSubBytes aes512 s.blk) (by simp) (by simp)
  | ishr => exact blockEffect_result (fun s => invShiftRows aes512 s.blk) (by simp) (by simp)
  | imix => exact blockEffect_result (fun s => invMixColumns aes512 s.blk) (by simp) (by simp)

end Sys2Proof.Machine
end

