-- ==== Sys2Proof/Laws/Memory.lean ====
section
/-! SUPPORT. `DMEM`: what a byte reads after each operation, and that every operation keeps the canonical form and the range. -/

namespace Sys2Proof.Machine

/-! ### One byte -/

theorem lookupCell_insertCell (cs : List Host.Cell) (a x : Nat) (b : Byte) :
    lookupCell (insertCell cs a b) x = if a = x then some b else lookupCell cs x := by
  induction cs with
  | nil => simp [insertCell, lookupCell]
  | cons p cs ih =>
    obtain ⟨a', b'⟩ := p
    simp only [insertCell]
    split
    · simp [lookupCell]
    · split
      · rename_i h; subst h
        by_cases hx : a = x <;> simp [lookupCell, hx]
      · simp only [lookupCell, ih]
        by_cases hx : a' = x
        · have : a ≠ x := by omega
          simp [hx, this]
        · simp [hx]

/-- A read after a write: the value written at the same address, the old value at any other. -/
@[simp] theorem readByte_writeByte (m : Memory) (a x : Nat) (b : Byte) :
    readByte (writeByte m a b) x = if a = x then b else readByte m x := by
  unfold readByte writeByte
  rw [lookupCell_insertCell]
  by_cases h : a = x <;> simp [h]

@[simp] theorem writeByte_draw (m : Memory) (a : Nat) (b : Byte) : (writeByte m a b).draw = m.draw := rfl

/-- A read after a write of consecutive bytes. -/
theorem readByte_writeBytes (m : Memory) (a : Nat) (bs : List Byte) (x : Nat) :
    readByte (writeBytes m a bs) x = if h : a ≤ x ∧ x < a + bs.length then bs[x - a] else readByte m x := by
  induction bs generalizing m a with
  | nil => simp [writeBytes]
  | cons b bs ih =>
    rw [writeBytes, ih]
    by_cases h : a + 1 ≤ x ∧ x < a + 1 + bs.length
    · have h' : a ≤ x ∧ x < a + (b :: bs).length := by simp; omega
      have e : x - a = (x - (a + 1)) + 1 := by omega
      rw [dif_pos h, dif_pos h']
      simp only [e, List.getElem_cons_succ]
    · by_cases h2 : a = x
      · subst h2; simp
      · have h' : ¬(a ≤ x ∧ x < a + (b :: bs).length) := by simp; omega
        rw [dif_neg h, dif_neg h', readByte_writeByte, if_neg h2]

theorem writeBytes_draw (m : Memory) (a : Nat) (bs : List Byte) : (writeBytes m a bs).draw = m.draw := by
  induction bs generalizing m a with
  | nil => rfl
  | cons b bs ih => simp [writeBytes, ih]

/-! ### Blocks and words -/

@[simp] theorem getElem_memRead (m : Memory) (a i : Nat) (h : i < 16) : (memRead m a)[i] = readByte m (16 * a + i) := by
  simp [memRead]

/-- A byte after a block write. -/
theorem readByte_memWrite (m : Memory) (a : Nat) (v : Block) (x : Nat) :
    readByte (memWrite m a v) x = if h : 16 * a ≤ x ∧ x < 16 * a + 16 then v[x - 16 * a]'(by omega) else readByte m x := by
  unfold memWrite
  rw [readByte_writeBytes]
  simp

/-- A byte after the host's write of a word. -/
theorem readByte_writeMemWord (m : Memory) (n : Nat) (v : Word) (x : Nat) :
    readByte (writeMemWord m n v) x = if x / 4 = n then wordByte v (x % 4) else readByte m x := by
  unfold writeMemWord
  rw [readByte_writeBytes]
  by_cases h : x / 4 = n
  · have h' : 4 * n ≤ x ∧ x < 4 * n + 4 := by omega
    have e : x - 4 * n = x % 4 := by omega
    have : x % 4 < 4 := Nat.mod_lt _ (by omega)
    simp only [List.length_cons, List.length_nil, Nat.zero_add, Nat.reduceAdd, h', and_self, ↓reduceDIte, h, ↓reduceIte, e]
    generalize hr : x % 4 = r at *
    interval_cases r <;> rfl
  · have h' : ¬(4 * n ≤ x ∧ x < 4 * n + 4) := by omega
    simp only [List.length_cons, List.length_nil, Nat.zero_add, Nat.reduceAdd, h', ↓reduceDIte, h, ↓reduceIte]

@[simp] theorem memWrite_draw (m : Memory) (a : Nat) (v : Block) : (memWrite m a v).draw = m.draw := writeBytes_draw ..

@[simp] theorem writeMemWord_draw (m : Memory) (n : Nat) (v : Word) : (writeMemWord m n v).draw = m.draw :=
  writeBytes_draw ..

/-! ### The canonical form -/

theorem risingAbove_insertCell (cs : List Host.Cell) (a : Nat) (b : Byte) (lo : Option Nat)
    (hlo : ∀ l, lo = some l → l < a) (h : risingAbove lo cs = true) : risingAbove lo (insertCell cs a b) = true := by
  induction cs generalizing lo with
  | nil => cases lo <;> simp_all [insertCell, risingAbove]
  | cons p cs ih =>
    obtain ⟨a', b'⟩ := p
    simp only [insertCell]
    split
    · cases lo <;> simp_all [risingAbove]
    · split
      · cases lo <;> simp_all [risingAbove]
      · have ha : a' < a := by omega
        cases lo <;> simp_all [risingAbove]

theorem insertCell_all (cs : List Host.Cell) (a : Nat) (b : Byte) (p : Host.Cell → Bool) (hp : p (a, b) = true)
    (h : cs.all p = true) : (insertCell cs a b).all p = true := by
  induction cs with
  | nil => simp [insertCell, hp]
  | cons c cs ih =>
    simp only [List.all_cons, Bool.and_eq_true] at h
    simp only [insertCell]
    split
    · simp [hp, h.1, h.2]
    · split
      · simp [hp, h.2]
      · simp [h.1, ih h.2]

/-- Writing a byte keeps the canonical form. -/
theorem writeByte_wf (m : Memory) (a : Nat) (b : Byte) (h : m.wf = true) : (writeByte m a b).wf = true :=
  risingAbove_insertCell _ _ _ _ (by simp) h

/-- Writing a byte inside the memory keeps every listed byte inside. -/
theorem writeByte_inside (nblk : Nat) (m : Memory) (a : Nat) (b : Byte) (ha : a < 16 * nblk)
    (h : m.inside nblk = true) : (writeByte m a b).inside nblk = true :=
  insertCell_all _ _ _ _ (by simpa using ha) h

theorem writeBytes_wf (m : Memory) (a : Nat) (bs : List Byte) (h : m.wf = true) : (writeBytes m a bs).wf = true := by
  induction bs generalizing m a with
  | nil => exact h
  | cons b bs ih => exact ih _ _ (writeByte_wf _ _ _ h)

theorem writeBytes_inside (nblk : Nat) (m : Memory) (a : Nat) (bs : List Byte) (ha : a + bs.length ≤ 16 * nblk)
    (h : m.inside nblk = true) : (writeBytes m a bs).inside nblk = true := by
  induction bs generalizing m a with
  | nil => exact h
  | cons b bs ih =>
    simp only [List.length_cons] at ha
    exact ih _ _ (by omega) (writeByte_inside _ _ _ _ (by omega) h)

/-- `MemWrite` keeps the canonical form. -/
theorem memWrite_wf (m : Memory) (a : Nat) (v : Block) (h : m.wf = true) : (memWrite m a v).wf = true :=
  writeBytes_wf _ _ _ h

theorem memWrite_inside (nblk : Nat) (m : Memory) (a : Nat) (v : Block) (ha : a < nblk) (h : m.inside nblk = true) :
    (memWrite m a v).inside nblk = true :=
  writeBytes_inside _ _ _ _ (by simp; omega) h

/-- The host's write of a word keeps the canonical form. -/
theorem writeMemWord_wf (m : Memory) (n : Nat) (v : Word) (h : m.wf = true) : (writeMemWord m n v).wf = true :=
  writeBytes_wf _ _ _ h

theorem writeMemWord_inside (nblk : Nat) (m : Memory) (n : Nat) (v : Word) (hn : n < 4 * nblk)
    (h : m.inside nblk = true) : (writeMemWord m n v).inside nblk = true :=
  writeBytes_inside _ _ _ _ (by simp; omega) h

/-- The memory after reset has the canonical form. -/
theorem redraw_wf (m : Memory) : (redraw m).wf = true := rfl

theorem redraw_inside (nblk : Nat) (m : Memory) : (redraw m).inside nblk = true := rfl

/-- `State.reset`'s memory has the canonical form. -/
theorem reset_memory_wf : State.reset.dmem.wf = true := rfl

/-- The block loop of an ECB command keeps the canonical form. -/
theorem ecbLoop_wf (f : Block → Block) (src dst n : Nat) (m : Memory) (h : m.wf = true) :
    (ecbLoop f src dst n m).wf = true := by
  induction n with
  | zero => exact h
  | succ n ih => exact memWrite_wf _ _ _ ih

/-- The block loop writes inside the memory when the destination sequence lies inside it. -/
theorem ecbLoop_inside (nblk : Nat) (f : Block → Block) (src dst n : Nat) (m : Memory) (hd : n = 0 ∨ dst + n ≤ nblk)
    (h : m.inside nblk = true) : (ecbLoop f src dst n m).inside nblk = true := by
  induction n with
  | zero => exact h
  | succ n ih => exact memWrite_inside _ _ _ _ (by omega) (ih (by omega))

end Sys2Proof.Machine
end

