-- ==== Sys2Proof/Laws/Ecb.lean ====
section
/-! SUPPORT. The ECB commands: their preconditions as propositions, and every byte of memory after the block loop. -/

namespace Sys2Proof.Machine

/-- The distance of the two sequences is the larger index minus the smaller. -/
theorem blockDistance_eq (s : State) :
    blockDistance s = max s.src.toNat s.dst.toNat - min s.src.toNat s.dst.toNat := by
  unfold blockDistance srcIndex dstIndex
  by_cases h : s.src.toNat ≤ s.dst.toNat
  · rw [if_pos h]; omega
  · rw [if_neg h]; omega

theorem ecbOutOfRange_iff (cfg : Config) (s : State) : ecbOutOfRange cfg s = true ↔
    0 < s.count.toNat ∧ (cfg.nblk < s.src.toNat + s.count.toNat ∨ cfg.nblk < s.dst.toNat + s.count.toNat) := by
  unfold ecbOutOfRange srcIndex dstIndex blockCount
  exact decide_eq_true_iff

theorem ecbOverlaps_iff (s : State) : ecbOverlaps s = true ↔
    0 < s.count.toNat ∧ s.src.toNat ≠ s.dst.toNat ∧
      max s.src.toNat s.dst.toNat - min s.src.toNat s.dst.toNat < s.count.toNat := by
  unfold ecbOverlaps
  rw [blockDistance_eq]
  exact decide_eq_true_iff

/-- An ECB command whose three preconditions hold has its effect. -/
theorem ecbCommand_admitted {cfg : Config} {s : State} (f : Block → RoundKeys → Block) (h : s.err = false) (hk : s.kv = true)
    (hr : ecbOutOfRange cfg s = false) (ho : ecbOverlaps s = false) :
    ecbCommand cfg f s = .next (ecbEffect f s) :=
  command_admitted h (by simp [hk, hr, ho])

/-- Every byte after the first k passes of the block loop over two sequences of n blocks that are the same or disjoint: the
transformed source block inside the first k destination blocks, the old byte everywhere else. -/
theorem readByte_ecbLoop (f : Block → Block) {src dst n : Nat} (m : Memory)
    (hd : src = dst ∨ src + n ≤ dst ∨ dst + n ≤ src) {k : Nat} (hk : k ≤ n) (x : Nat) :
    readByte (ecbLoop f src dst k m) x =
      if 16 * dst ≤ x ∧ x < 16 * (dst + k) then
        (f (memRead m (src + (x / 16 - dst))))[x % 16]'(Nat.mod_lt _ (by omega))
      else readByte m x := by
  induction k generalizing x with
  | zero => rw [if_neg (by omega)]; rfl
  | succ k ih =>
    have ih := ih (by omega)
    have e : memRead (ecbLoop f src dst k m) (src + k) = memRead m (src + k) := by
      apply Vector.ext
      intro i hi
      simp only [getElem_memRead]
      rw [ih, if_neg (by omega)]
    simp only [ecbLoop, readByte_memWrite, e]
    by_cases c1 : 16 * (dst + k) ≤ x ∧ x < 16 * (dst + k) + 16
    · have e1 : x / 16 - dst = k := by omega
      have e2 : x - 16 * (dst + k) = x % 16 := by omega
      rw [dif_pos c1, if_pos (by omega)]
      simp only [e1, e2]
    · rw [dif_neg c1, ih]
      by_cases c2 : 16 * dst ≤ x ∧ x < 16 * (dst + k)
      · rw [if_pos c2, if_pos (by omega)]
      · rw [if_neg c2, if_neg (by omega)]

end Sys2Proof.Machine
end

