-- ==== Sys2Proof/Laws/HostSteps.lean ====
section
/-! SUPPORT. What a host step can do, said once. -/

namespace Sys2Proof.Machine

/-- With no host step left the machine is idle (60_exceptions R201). -/
theorem step_idle {s : State} (h : s.pending = []) : step s = .next s := by
  simp [step, issueNext, h]

/-- A step is the next host step, on the state with that step taken off the list. -/
theorem step_issue {s : State} {h : HostStep} {rest : List HostStep} (hp : s.pending = h :: rest) :
    step s = hostStep aes512 exec h { s with pending := rest } := by
  simp [step, issueNext, hp]

/-- A write in the halted state changes nothing (44_host_access R168). -/
theorem hostWrite_halted {cfg : Config} {run : Instr → State → Host.Outcome State Fault Refusal} {off v : Word} {s : State}
    (h : s.err = true) : hostWrite cfg run off v s = .next s := by
  simp [hostWrite, h]

/-- A write to `CMD` decodes the word and runs the command it names, or raises `E_ILLCMD` (44_host_access R169). -/
theorem hostWrite_cmd {cfg : Config} {run : Instr → State → Host.Outcome State Fault Refusal} {v : Word} {s : State}
    (h : s.err = false) : hostWrite cfg run 0#32 v s = writeCmd run v s := by
  simp [hostWrite, h, regAt]

/-- A word of the data window lies inside `DMEM` (20_memory R54). -/
theorem regAt_dmemw_lt {nblk : Nat} {off : Word} {n : Nat} (h : regAt nblk off = .dmemw n) : n < 4 * nblk := by
  simp only [regAt] at h
  repeat' split at h
  all_goals first
    | (simp only [HostReg.dmemw.injEq] at h; omega)
    | cases h

/-- What a host write can do, with what it needed. -/
inductive WriteResult (cfg : Config) (run : Instr → State → Host.Outcome State Fault Refusal) (off v : Word) (s : State) :
    Host.Outcome State Fault Refusal → Prop where
  /-- ignored: the core is halted -/
  | halted (h : s.err = true) : WriteResult cfg run off v s (.next s)
  /-- refused, and nothing but the error is recorded -/
  | raised (h : s.err = false) (e : ErrCode) : WriteResult cfg run off v s (.next (raiseError e s))
  /-- a command run -/
  | ran (h : s.err = false) (i : Instr) (ho : regAt cfg.nblk off = .cmd) (hi : decode v = .ok i) :
      WriteResult cfg run off v s (run i s)
  | src (h : s.err = false) : WriteResult cfg run off v s (.next { s with src := v })
  | dst (h : s.err = false) : WriteResult cfg run off v s (.next { s with dst := v })
  | count (h : s.err = false) : WriteResult cfg run off v s (.next { s with count := v })
  | blkw (h : s.err = false) (j : Fin 4) : WriteResult cfg run off v s
      (.next { s with blk := setWordAt s.blk j.val v, blkfill := setFill s.blkfill j.val })
  | keyw (h : s.err = false) (i : Fin 16) : WriteResult cfg run off v s
      (.next { s with key := setWordAt s.key i.val v, keyfill := setFill s.keyfill i.val })
  | dmemw (h : s.err = false) (n : Nat) (hn : n < 4 * cfg.nblk) :
      WriteResult cfg run off v s (.next { s with dmem := writeMemWord s.dmem n v })

/-- A host write does one of the things `WriteResult` lists. -/
theorem hostWrite_result (cfg : Config) (run : Instr → State → Host.Outcome State Fault Refusal) (off v : Word) (s : State) :
    WriteResult cfg run off v s (hostWrite cfg run off v s) := by
  cases h : s.err with
  | true => exact hostWrite_halted h ▸ .halted h
  | false =>
    have hn : ¬s.err = true := by simp [h]
    rw [hostWrite, if_neg hn]
    cases hr : regAt cfg.nblk off with
    | cmd =>
      cases hd : decode v with
      | error e => simpa only [writeCmd, hd] using .raised h .illCmd
      | ok i => simpa only [writeCmd, hd] using .ran h i hr hd
    | dmemw n => exact .dmemw h n (regAt_dmemw_lt hr)
    | status => exact .raised h .addr
    | rkw n => exact .raised h .addr
    | misaligned => exact .raised h .addr
    | unmapped => exact .raised h .addr
    | src => exact .src h
    | dst => exact .dst h
    | count => exact .count h
    | blkw j => exact .blkw h j
    | keyw i => exact .keyw h i

/-- What one step does, said once: nothing is left to issue; or a reset; or a read; or a write, which does one of the things
`WriteResult` lists. -/
theorem step_next {s t : State} (h : step s = .next t) :
    (s.pending = [] ∧ t = s) ∨
    (∃ rest, s.pending = .reset :: rest ∧ t = resetBlock { s with pending := rest }) ∨
    (∃ off rest, s.pending = .rd off :: rest ∧
      t = { s with pending := rest, returned := s.returned ++ [hostRead aes512 off { s with pending := rest }] }) ∨
    (∃ off v rest, s.pending = .wr off v :: rest ∧
      WriteResult aes512 exec off v { s with pending := rest } (.next t)) := by
  cases hp : s.pending with
  | nil =>
    rw [step_idle hp] at h
    cases h
    exact .inl ⟨rfl, rfl⟩
  | cons first rest =>
    rw [step_issue hp] at h
    cases first with
    | reset =>
      cases h
      exact .inr (.inl ⟨rest, rfl, rfl⟩)
    | rd off =>
      cases h
      exact .inr (.inr (.inl ⟨off, rest, rfl, rfl⟩))
    | wr off v => exact .inr (.inr (.inr ⟨off, v, rest, rfl, h ▸ hostWrite_result ..⟩))

end Sys2Proof.Machine
end

