-- ==== Sys2Proof/Laws/KeySchedule.lean ====
section
/-! SUPPORT. What the round keys say of the master key at the default parameters (41_key_schedule R120, R122, R124). -/

namespace Sys2Proof.Machine

/-- No two bytes have the same entry in the S-box table (40_round_primitives R92). -/
theorem sbox_injective {a b : Byte} (h : aes512.sbox a = aes512.sbox b) : a = b := by
  have key : ∀ i : Fin 256, aes512.invSbox (aes512.sbox (BitVec.ofFin i)) = BitVec.ofFin i := by decide +kernel
  calc a = aes512.invSbox (aes512.sbox a) := (key a.toFin).symm
    _ = aes512.invSbox (aes512.sbox b) := congrArg aes512.invSbox h
    _ = b := key b.toFin

/-- Bytes 0 to 3 of a mixed round key are the S-box images of one key word. -/
theorem expand_mixed_low (k : MasterKey) (i : Fin 15) (m : Fin 4) :
    (expand aes512 k)[i.val][m.val] = aes512.sbox k[4 * (i.val + 1) + m.val] := by
  obtain ⟨m, hm⟩ := m
  interval_cases m <;> simp [expand, aes512, keyMixAssist, cyclicChunk] <;> congr 2 <;> have := i.isLt <;> omega

/-- Round key 15 is raw key bytes. -/
theorem expand_last (k : MasterKey) (m : Fin 16) : (expand aes512 k)[15][m.val] = k[(60 + m.val) % 64] := by
  simp [expand, aes512, cyclicChunk]

/-- At the defaults the round keys determine the key (log entry 15). -/
theorem expand_injective {k k' : MasterKey} (h : expand aes512 k = expand aes512 k') : k = k' := by
  apply Vector.ext
  intro n hn
  by_cases h0 : n < 4
  · have e := expand_last k ⟨4 + n, by omega⟩
    rw [h, expand_last k' ⟨4 + n, by omega⟩] at e
    have en : (60 + (4 + n)) % 64 = n := by omega
    simpa only [en] using e.symm
  · have e := expand_mixed_low k ⟨n / 4 - 1, by omega⟩ ⟨n % 4, by omega⟩
    simp only [h] at e
    rw [expand_mixed_low k' ⟨n / 4 - 1, by omega⟩ ⟨n % 4, by omega⟩] at e
    have en : 4 * (n / 4 - 1 + 1) + n % 4 = n := by omega
    simp only [en] at e
    exact (sbox_injective e).symm

end Sys2Proof.Machine
end

