-- ==== Sys2Proof/Laws/Operands.lean ====
section
/-! SUPPORT. What stands at each offset of the register map (10_state R31), what a fill mask and `STATUS` read. -/

namespace Sys2Proof.Machine

variable {nblk : Nat} {off : Word}

theorem regAt_misaligned (h : off.toNat % 4 ≠ 0) : regAt nblk off = .misaligned := by
  unfold regAt
  rw [if_pos h]

theorem regAt_cmd (h : off.toNat = 0x000) : regAt nblk off = .cmd := by
  unfold regAt
  rw [if_neg (by omega), if_pos h]

theorem regAt_status (h : off.toNat = 0x004) : regAt nblk off = .status := by
  unfold regAt
  rw [if_neg (by omega), if_neg (by omega), if_pos h]

theorem regAt_src (h : off.toNat = 0x008) : regAt nblk off = .src := by
  unfold regAt
  rw [if_neg (by omega), if_neg (by omega), if_neg (by omega), if_pos h]

theorem regAt_dst (h : off.toNat = 0x00C) : regAt nblk off = .dst := by
  unfold regAt
  rw [if_neg (by omega), if_neg (by omega), if_neg (by omega), if_neg (by omega), if_pos h]

theorem regAt_count (h : off.toNat = 0x010) : regAt nblk off = .count := by
  unfold regAt
  rw [if_neg (by omega), if_neg (by omega), if_neg (by omega), if_neg (by omega), if_neg (by omega), if_pos h]

theorem regAt_blkw (j : Fin 4) (h : off.toNat = 0x020 + 4 * j.val) : regAt nblk off = .blkw j := by
  have hj := j.isLt
  unfold regAt
  rw [if_neg (by omega), if_neg (by omega), if_neg (by omega), if_neg (by omega), if_neg (by omega), if_neg (by omega),
    dif_pos (by omega)]
  exact congrArg HostReg.blkw (Fin.ext (by show (off.toNat - 0x020) / 4 = j.val; omega))

theorem regAt_keyw (i : Fin 16) (h : off.toNat = 0x040 + 4 * i.val) : regAt nblk off = .keyw i := by
  have hi := i.isLt
  unfold regAt
  rw [if_neg (by omega), if_neg (by omega), if_neg (by omega), if_neg (by omega), if_neg (by omega), if_neg (by omega),
    dif_neg (by omega), dif_pos (by omega)]
  exact congrArg HostReg.keyw (Fin.ext (by show (off.toNat - 0x040) / 4 = i.val; omega))

theorem regAt_rkw (n : Fin 64) (h : off.toNat = 0x100 + 4 * n.val) : regAt nblk off = .rkw n := by
  have hn := n.isLt
  unfold regAt
  rw [if_neg (by omega), if_neg (by omega), if_neg (by omega), if_neg (by omega), if_neg (by omega), if_neg (by omega),
    dif_neg (by omega), dif_neg (by omega), dif_pos (by omega)]
  exact congrArg HostReg.rkw (Fin.ext (by show (off.toNat - 0x100) / 4 = n.val; omega))

theorem regAt_dmemw {n : Nat} (hn : n < 4 * nblk) (h : off.toNat = 0x1000 + 4 * n) : regAt nblk off = .dmemw n := by
  unfold regAt
  rw [if_neg (by omega), if_neg (by omega), if_neg (by omega), if_neg (by omega), if_neg (by omega), if_neg (by omega),
    dif_neg (by omega), dif_neg (by omega), dif_neg (by omega), if_pos (by omega)]
  exact congrArg HostReg.dmemw (by omega)

theorem regAt_unmapped (ha : off.toNat % 4 = 0)
    (h : (0x014 ≤ off.toNat ∧ off.toNat < 0x020) ∨ (0x030 ≤ off.toNat ∧ off.toNat < 0x040) ∨
      (0x080 ≤ off.toNat ∧ off.toNat < 0x100) ∨ (0x200 ≤ off.toNat ∧ off.toNat < 0x1000) ∨
      0x1000 + 16 * nblk ≤ off.toNat) : regAt nblk off = .unmapped := by
  unfold regAt
  rw [if_neg (by omega), if_neg (by omega), if_neg (by omega), if_neg (by omega), if_neg (by omega), if_neg (by omega),
    dif_neg (by omega), dif_neg (by omega), dif_neg (by omega), if_neg (by omega)]

/-- The bits of a fill mask after one more word is written. -/
theorem getElem_setFill {n : Nat} (mask : BitVec n) (j k : Nat) (hj : j < n) (hk : k < n) :
    (setFill mask j)[k] = if k = j then true else mask[k] := by
  by_cases h : k = j
  · subst h
    simp [setFill]
  · have : ¬k < j → k - j ≠ 0 := by omega
    simp [setFill, h]
    omega

/-- The block words depend on `BLK` alone. -/
theorem blkWord_congr {s t : State} (h : t.blk = s.blk) (j : Fin 4) : blkWord t j = blkWord s j := by
  unfold blkWord
  rw [h]

/-- The key words depend on `KEY` alone. -/
theorem keyWord_congr {s t : State} (h : t.key = s.key) (i : Fin 16) : keyWord t i = keyWord s i := by
  unfold keyWord
  rw [h]

/-- `STATUS` as the sum of its fields. -/
theorem statusWord_toNat (s : State) : (statusWord s).toNat =
    s.kv.toNat + 2 * s.err.toNat + 16 * s.ecode.toNat + 256 * s.blkfill.toNat + 65536 * s.keyfill.toNat := by
  have h1 := s.blkfill.isLt
  have h2 := s.ecode.isLt
  have h3 := Bool.toNat_lt s.err
  have h4 := Bool.toNat_lt s.kv
  simp only [statusWord, BitVec.toNat_append, BitVec.toNat_ofBool, BitVec.toNat_ofNat, Nat.zero_mod,
    Nat.or_zero]
  rw [← Nat.shiftLeft_add_eq_or_of_lt (b := s.kv.toNat) (i := 1) (by omega),
    ← Nat.shiftLeft_add_eq_or_of_lt (b := s.err.toNat) (i := 1) (by omega),
    ← Nat.shiftLeft_add_eq_or_of_lt (b := s.ecode.toNat) (i := 4) (by omega),
    ← Nat.shiftLeft_add_eq_or_of_lt (b := s.blkfill.toNat) (i := 4) (by omega)]
  simp only [Nat.shiftLeft_eq]
  omega

end Sys2Proof.Machine
end

