-- ==== Sys2Proof/Laws/PerInstr.lean ====
section
/-! SUPPORT. Families of facts about every command as syntax, one lemma per constructor of `Instr`. -/

namespace Sys2Proof.Laws

namespace Legal

/-- The command's word passes the three checks of 30_encoding R72 and lies in its own row of the opcode map. -/
def Statement (i : Instr) : Prop :=
  (cmdFields (encode i)).wf = true ∧ encode i &&& instrMask i = instrMatch i

theorem kexp : Statement .kexp := by unfold Statement; decide
theorem enc : Statement .enc := by unfold Statement; decide
theorem dec : Statement .dec := by unfold Statement; decide
theorem ecbenc : Statement .ecbenc := by unfold Statement; decide
theorem ecbdec : Statement .ecbdec := by unfold Statement; decide
theorem sub : Statement .sub := by unfold Statement; decide
theorem shr : Statement .shr := by unfold Statement; decide
theorem mix : Statement .mix := by unfold Statement; decide
theorem ark (r : Fin 16) : Statement (.ark r) := by unfold Statement; revert r; decide
theorem isub : Statement .isub := by unfold Statement; decide
theorem ishr : Statement .ishr := by unfold Statement; decide
theorem imix : Statement .imix := by unfold Statement; decide

end Legal

end Sys2Proof.Laws
end

