-- ==== Sys2Proof/Tests/Slice0.lean ====
section
/-! SUPPORT. Tests against words written out from 30_encoding R70 to R73 and against the vectors of 95_test_vectors, and a witness for
the hypotheses of every statement that has some. -/

open Sys2Proof Sys2Proof.Machine

namespace Sys2Proof.Tests

/-! ### Helpers -/

/-- A Block from its sixteen bytes, byte 0 written first. -/
def hexBlock (n : Nat) : Block := Vector.ofFn fun i => BitVec.ofNat 8 (n >>> (8 * (15 - i.val)))

/-- The key `00 01 .. 3f` of 95_test_vectors. -/
def countKey : MasterKey := Vector.ofFn fun i => BitVec.ofNat 8 i.val

/-- The block `00 11 22 .. ff` of 95_test_vectors. -/
def lanes : Block := hexBlock 0x00112233445566778899aabbccddeeff

/-- The ready state of 95_test_vectors 2.4: key `00 01 .. 3f` loaded and expanded, `BLK` = `00 11 .. ff`. -/
def ready : State :=
  { State.reset with
    key := countKey, keyfill := 0xFFFF#16, rk := expand aes512 countKey, kv := true, blk := lanes, blkfill := 0xF#4 }

/-- A state with these host steps to come. -/
def waiting (s : State) (steps : List HostStep) : State := { s with pending := steps }

/-- The halted state, with `E_ADDR` recorded. -/
def halted (s : State) : State := { s with err := true, ecode := 7#4 }

/-- A part of the next state, if there is one. -/
def look {α : Type} (f : State → α) : Result → Option α
  | .next t => some (f t)
  | .fault _ => none
  | .refused _ => none

/-- `BLK` and `STATUS` after the word is written to `CMD`. -/
def afterWord (s : State) (w : Nat) : Option (Block × Word) :=
  look (fun t => (t.blk, statusWord t)) (step (s.withFetchWord 32 w))

/-- `STATUS` after one host step. -/
def statusAfter (s : State) (h : HostStep) : Option Word := look statusWord (step (waiting s [h]))

/-- The word one read returns. -/
def readAt (s : State) (off : Word) : Option (List Word) := look (fun t => t.returned) (step (waiting s [.rd off]))

/-! ### Decoding: one word of each command, written out from 30_encoding R72 (`ZERO` 20 bits, `R` 4 bits, `OP` 8 bits) -/

theorem test_decode_kexp : decode 0b00000000000000000000_0000_00000001#32 = .ok .kexp := by decide
theorem test_decode_enc : decode 0b00000000000000000000_0000_00000010#32 = .ok .enc := by decide
theorem test_decode_dec : decode 0b00000000000000000000_0000_00000011#32 = .ok .dec := by decide
theorem test_decode_ecbenc : decode 0b00000000000000000000_0000_00000100#32 = .ok .ecbenc := by decide
theorem test_decode_ecbdec : decode 0b00000000000000000000_0000_00000101#32 = .ok .ecbdec := by decide
theorem test_decode_sub : decode 0b00000000000000000000_0000_00001000#32 = .ok .sub := by decide
theorem test_decode_shr : decode 0b00000000000000000000_0000_00001001#32 = .ok .shr := by decide
theorem test_decode_mix : decode 0b00000000000000000000_0000_00001010#32 = .ok .mix := by decide
theorem test_decode_ark_0 : decode 0b00000000000000000000_0000_00001011#32 = .ok (.ark 0) := by decide
theorem test_decode_ark_13 : decode 0b00000000000000000000_1101_00001011#32 = .ok (.ark 13) := by decide
theorem test_decode_isub : decode 0b00000000000000000000_0000_00001100#32 = .ok .isub := by decide
theorem test_decode_ishr : decode 0b00000000000000000000_0000_00001101#32 = .ok .ishr := by decide
theorem test_decode_imix : decode 0b00000000000000000000_0000_00001110#32 = .ok .imix := by decide

/-- The table's numbering is the word's own; a row of the opcode table read so. -/
theorem test_decode_table_word : decodeTableWord 32 0x0000070B = some (.ark 7) ∧ decodeTableWord 32 0x00000108 = none := by decide

/-! ### Well-formedness: an ill-formed term for each check, which the check refuses -/

/-- `ZERO` is not 0: the word 0x0000100b of 95_test_vectors 2.4. -/
theorem test_wf_zero_field : (CmdFields.mk 0x0B#8 0#4 1#20).zeroOk = false ∧ (CmdFields.mk 0x0B#8 0#4 1#20).wf = false := by decide

/-- `OP` is none of the twelve: 0x00, 0x06, 0x07, 0x0F, 0xFF (30_encoding R73). -/
theorem test_wf_opcode : [0x00#8, 0x06#8, 0x07#8, 0x0F#8, 0xFF#8].all (fun op =>
    !(CmdFields.mk op 0#4 0#20).opOk && !(CmdFields.mk op 0#4 0#20).wf) = true := by decide

/-- `R` is not 0 and the command is not `ARK`: the word 0x00000108 of 95_test_vectors 2.4. -/
theorem test_wf_round_field :
    (CmdFields.mk 0x08#8 1#4 0#20).roundOk = false ∧ (CmdFields.mk 0x08#8 1#4 0#20).wf = false := by decide

theorem test_wf_ark_any_round : ∀ r : BitVec 4, (CmdFields.mk 0x0B#8 r 0#20).wf = true := by decide

/-- The checks and the decoder agree on the words of 95_test_vectors 2.4. -/
theorem test_wf_decode : [0x00000108#32, 0x0000100B#32, 0x0000000F#32, 0x00000000#32].all (fun w =>
    !(cmdFields w).wf && (decode? w).isNone) = true := by decide

/-! ### One step of each command (95_test_vectors 2.4 to 2.8, 2.10) -/

theorem test_sub : afterWord ready 0x8 = some (hexBlock 0x638293c31bfc33f5c4eeacea4bc12816, 0xffff0f01#32) := by decide +kernel

/-- `SUB` needs no key, and needs all of `BLK`. -/
theorem test_sub_preconditions :
    afterWord { ready with kv := false, keyfill := 0#16 } 0x8 = some (hexBlock 0x638293c31bfc33f5c4eeacea4bc12816, 0x00000f00#32) ∧
    afterWord { ready with blkfill := 0x7#4 } 0x8 = some (lanes, 0xffff0733#32) := by decide +kernel

theorem test_shr : afterWord ready 0x9 = some (hexBlock 0x0055aaff4499ee3388dd2277cc1166bb, 0xffff0f01#32) := by decide +kernel
theorem test_mix : afterWord ready 0xA = some (hexBlock 0x2277005566334411aaff88ddeebbcc99, 0xffff0f01#32) := by decide +kernel

theorem test_ark :
    afterWord ready 0x00B = some (hexBlock 0xf27a4df62e3aa385764e01cd1a769801, 0xffff0f01#32) ∧
    afterWord ready 0x10B = some (hexBlock 0x3010451847324d47421b63c64c149335, 0xffff0f01#32) ∧
    afterWord ready 0xF0B = some (hexBlock 0x3c2c1c0c445464748c9cacbcc4d4e4f4, 0xffff0f01#32) := by decide +kernel

/-- `E_BLKLEN` before `E_NOKEY`. -/
theorem test_ark_preconditions :
    afterWord { ready with kv := false, keyfill := 0#16 } 0xB = some (lanes, 0x00000f42#32) ∧
    afterWord { ready with kv := false, keyfill := 0#16, blkfill := 0x1#4 } 0xB = some (lanes, 0x00000132#32) := by decide +kernel

theorem test_isub : afterWord ready 0xC = some (hexBlock 0x52e3946686edd30297f962fe27c9997d, 0xffff0f01#32) := by decide +kernel
theorem test_ishr : afterWord ready 0xD = some (hexBlock 0x00ddaa774411eebb885522ffcc996633, 0xffff0f01#32) := by decide +kernel
theorem test_imix : afterWord ready 0xE = some (hexBlock 0xaaff88ddeebbcc992277005566334411, 0xffff0f01#32) := by decide +kernel

/-- Round keys 1, 13 (whose chunk wraps) and 15 of the key `00 01 .. 3f`. -/
theorem test_kexp :
    look (fun t => (t.rk[1], t.rk[13], t.rk[15], statusWord t))
        (step ({ State.reset with key := countKey, keyfill := 0xFFFF#16 }.withFetchWord 32 0x1)) =
      some (hexBlock 0x3001672b03672b30ca82c97d80c97dca, hexBlock 0x071280e25f80e207637c777b31777b63,
        hexBlock 0x3c3d3e3f000102030405060708090a0b, 0xFFFF0001#32) := by decide +kernel

theorem test_kexp_short_key : look statusWord (step ({ State.reset with keyfill := 0x7FFF#16 }.withFetchWord 32 0x1)) =
    some 0x7fff0022#32 := by decide

theorem test_encrypt : encrypt aes512 lanes (expand aes512 countKey) = hexBlock 0xabd92eacfa38d49c32b717d68acdba4d := by decide +kernel
theorem test_decrypt : decrypt aes512 lanes (expand aes512 countKey) = hexBlock 0x3d96a82158adc8437518ee4e9403f271 := by decide +kernel

theorem test_enc : exec .enc ready = .next { ready with blk := hexBlock 0xabd92eacfa38d49c32b717d68acdba4d } :=
  (exec_enc ready).trans ((command_admitted rfl (by decide)).trans (by rw [← test_encrypt]; rfl))

theorem test_dec : exec .dec ready = .next { ready with blk := hexBlock 0x3d96a82158adc8437518ee4e9403f271 } :=
  (exec_dec ready).trans ((command_admitted rfl (by decide)).trans (by rw [← test_decrypt]; rfl))

/-- The ready state with `00 11 .. ff` in block 0 of `DMEM`, `SRC`, `DST`, `COUNT` = 0, 255, 1. -/
def ecbReady : State := { ready with src := 0#32, dst := 255#32, count := 1#32, dmem := memWrite ready.dmem 0 lanes }

theorem test_ecb_source : memRead ecbReady.dmem ecbReady.src.toNat = lanes := by decide +kernel

/-- The effect of an ECB command with `COUNT` = 1. -/
theorem ecbEffect_one (f : Block → RoundKeys → Block) {s : State} (h : s.count = 1#32) :
    ecbEffect f s = { s with dmem := memWrite s.dmem s.dst.toNat (f (memRead s.dmem s.src.toNat) s.rk) } := by
  unfold ecbEffect blockCount
  rw [h]
  rfl

theorem ecbReady_rk : ecbReady.rk = expand aes512 countKey := rfl

theorem test_ecbenc : exec .ecbenc ecbReady =
    .next { ecbReady with dmem := memWrite ecbReady.dmem 255 (hexBlock 0xabd92eacfa38d49c32b717d68acdba4d) } :=
  (ecbCommand_admitted (cfg := aes512) (s := ecbReady) (encrypt aes512) rfl rfl (by decide) (by decide)).trans
    (by rw [ecbEffect_one _ rfl, test_ecb_source, ecbReady_rk, test_encrypt]; rfl)

theorem test_ecbdec : exec .ecbdec ecbReady =
    .next { ecbReady with dmem := memWrite ecbReady.dmem 255 (hexBlock 0x3d96a82158adc8437518ee4e9403f271) } :=
  (ecbCommand_admitted (cfg := aes512) (s := ecbReady) (decrypt aes512) rfl rfl (by decide) (by decide)).trans
    (by rw [ecbEffect_one _ rfl, test_ecb_source, ecbReady_rk, test_decrypt]; rfl)

/-- 95_test_vectors 2.10: `E_NOKEY` before `E_RANGE`, `E_RANGE` before `E_OVERLAP`, `E_OVERLAP`. -/
theorem test_ecb_errors :
    afterWord { State.reset with src := 300#32, count := 1#32 } 0x4 = some (zeroBlock, 0x00000042#32) ∧
    afterWord { ready with src := 255#32, dst := 254#32, count := 2#32, blkfill := 0#4 } 0x5 = some (lanes, 0xffff0053#32) ∧
    afterWord { ready with src := 4#32, dst := 5#32, count := 2#32, blkfill := 0#4 } 0x4 = some (lanes, 0xffff0063#32) := by
  decide +kernel

/-! ### Host steps (95_test_vectors 2.9 to 2.11) -/

theorem test_write_register_window :
    statusAfter State.reset (.wr 0x008#32 0x11223344#32) = some 0x00000000#32 ∧
    statusAfter State.reset (.wr 0x02c#32 0x11223344#32) = some 0x00000800#32 ∧
    statusAfter State.reset (.wr 0x07c#32 0x11223344#32) = some 0x80000000#32 := by decide

theorem test_write_block_word : look (fun t => t.blk) (step (waiting State.reset [.wr 0x02c#32 0x11223344#32])) =
    some (hexBlock 0x00000000000000000000000044332211) := by decide +kernel

theorem test_write_errors :
    [0x2000#32, 0x004#32, 0x100#32, 0x1fc#32, 0x080#32, 0x030#32, 0x014#32, 0x200#32, 0xffc#32, 0x022#32, 0x1001#32, 0x003#32,
      0xfffffffc#32].all (fun off => statusAfter State.reset (.wr off 0x11223344#32) == some 0x00000072#32) = true ∧
    statusAfter State.reset (.wr 0x000#32 0x11223344#32) = some 0x00000012#32 := by decide

theorem test_write_last_memory_word :
    look (fun t => t.dmem.cells) (step (waiting State.reset [.wr 0x1ffc#32 0x11223344#32])) =
      some [(4092, 0x44#8), (4093, 0x33#8), (4094, 0x22#8), (4095, 0x11#8)] := by decide

theorem test_reads :
    readAt { ready with src := 5#32, count := 7#32 } 0x008#32 = some [0x00000005#32] ∧
    readAt { ready with src := 5#32, count := 7#32 } 0x010#32 = some [0x00000007#32] ∧
    readAt ready 0x004#32 = some [0xffff0f01#32] ∧ readAt ready 0x104#32 = some [0xf2c56f6a#32] ∧
    readAt ready 0x1fc#32 = some [0x0b0a0908#32] := by decide +kernel

theorem test_reads_of_nothing : [0x000#32, 0x014#32, 0x080#32, 0x021#32, 0x2000#32].all (fun off =>
    readAt ready off == some [0x00000000#32]) = true := by decide +kernel

theorem test_halted_stays : [HostStep.wr 0x000#32 0x2#32, .wr 0x020#32 0xdeadbeef#32, .wr 0x000#32 0#32, .wr 0x033#32 1#32].all (fun h =>
    statusAfter (halted ready) h == some 0xffff0f73#32) = true := by decide +kernel

theorem test_reset : statusAfter (halted ready) .reset = some 0x00000000#32 := by decide

/-! ### Memory -/

theorem test_memory_canonical : (writeByte (writeByte (writeByte State.reset.dmem 5 1#8) 2 7#8) 5 9#8).cells = [(2, 7#8), (5, 9#8)] := by
  decide

theorem test_memory_last_block : (memWrite State.reset.dmem 255 lanes).wf = true ∧
    (memWrite State.reset.dmem 255 lanes).inside 256 = true ∧
    readByte (memWrite State.reset.dmem 255 lanes) 4095 = 0xff#8 := by decide +kernel

/-! ### Witnesses: concrete states that meet the hypotheses of each statement, clause by clause -/

/-- Parameters other than the defaults that are lawful: identity tables and matrices, two blocks of memory. -/
def toyConfig : Config :=
  { aes512 with
    sbox := fun a => a
    invSbox := fun a => a
    mixmat := fun r k => if r = k then 1#8 else 0#8
    invMixmat := fun r k => if r = k then 1#8 else 0#8
    nblk := 2 }

theorem toyConfig_lawful : toyConfig.Lawful where
  invSbox_sbox _ := rfl
  sbox_invSbox _ := rfl
  poly_degree := rfl
  invMix_mix := by decide
  mix_invMix := by decide
  byteAt_rowCol := by decide
  rowCol_byteAt := by decide
  nblk_pos := by decide
  nblk_le := by decide

theorem witness_IllegalWordRaisesIllCmd :
    ∀ w ∈ [0x00001001#32, 0x00000000#32, 0x00000006#32, 0x00000007#32, 0x0000000F#32, 0x000000FF#32, 0x00000101#32],
      (waiting ready [.wr 0x000#32 w]).pending = [.wr 0x000#32 w] ∧ (waiting ready [.wr 0x000#32 w]).err = false ∧
      (w.toNat / 2 ^ 12 ≠ 0 ∨
        w.toNat % 2 ^ 8 = 0x00 ∨ w.toNat % 2 ^ 8 = 0x06 ∨ w.toNat % 2 ^ 8 = 0x07 ∨ 0x0F ≤ w.toNat % 2 ^ 8 ∨
        (w.toNat % 2 ^ 8 ≠ 0x0B ∧ w.toNat / 2 ^ 8 % 2 ^ 4 ≠ 0)) := by
  intro w hw
  simp only [List.mem_cons, List.not_mem_nil, or_false] at hw
  obtain rfl | rfl | rfl | rfl | rfl | rfl | rfl := hw <;> exact ⟨rfl, rfl, by decide⟩

theorem witness_StepRunsDecodedCommand :
    (waiting ready [.wr 0x000#32 0x00000F0B#32]).pending = .wr 0x000#32 0x00000F0B#32 :: [] ∧
    decode 0x00000F0B#32 = .ok (.ark 15) := by decide

theorem witness_DispatchRunsOneCommand_illegal :
    (waiting ready [.wr 0x000#32 0#32]).pending = .wr 0x000#32 0#32 :: [] ∧ (waiting ready [.wr 0x000#32 0#32]).err = false ∧
    ¬∃ i, decode 0#32 = .ok i :=
  ⟨rfl, rfl, fun ⟨_, h⟩ => by cases h⟩

theorem witness_DispatchRunsOneCommand_legal :
    (waiting ready [.wr 0x000#32 1#32]).pending = .wr 0x000#32 1#32 :: [] ∧ (waiting ready [.wr 0x000#32 1#32]).err = false ∧
    decode 1#32 = .ok .kexp := by decide

/-- Also the premise of `DecryptInvertsEncrypt` and of the last clause of `EcbFunctionsActBlockByBlock`. -/
theorem witness_InversePrimitivesInvert : ∃ cfg : Config, cfg.Lawful := ⟨toyConfig, toyConfig_lawful⟩

theorem witness_GmulIsFieldMultiplication : (0xff#8 : Byte) ≠ 0x00#8 := by decide

theorem witness_KeyMixDataflow : ∃ b d : Block, b ≠ d ∧ ∀ i : Fin 16, i.val / 4 = 1 ∨ i.val / 4 = 3 → b[i] = d[i] :=
  ⟨zeroBlock, zeroBlock.set 0 1#8, by decide, by decide⟩

theorem witness_ExpandUsesTwoKeyWords : ∃ (k k' : MasterKey) (i : Fin 15), k ≠ k' ∧
    ∀ n : Fin 64, n.val / 4 = (i.val + 1) % 16 ∨ n.val / 4 = (i.val + 3) % 16 → k[n] = k'[n] :=
  ⟨Vector.replicate 64 0#8, (Vector.replicate 64 0#8).set 0 1#8, 14, by decide, by decide +kernel⟩

/-- The states of the rounds, for a witness. -/
def roundStates (cfg : Config) (b : Block) (K : RoundKeys) : Nat → Block
  | 0 => addRoundKey b K[0]
  | r + 1 =>
    if h : r + 1 < 16 then addRoundKey (mixColumns cfg (shiftRows cfg (subBytes cfg (roundStates cfg b K r)))) K[r + 1] else b

theorem witness_EncryptRunsTheRounds : ∃ (cfg : Config) (b : Block) (K : RoundKeys) (st : Nat → Block),
    st 0 = addRoundKey b K[0] ∧
    ∀ r : Fin 16, 1 ≤ r.val → r.val ≤ 14 →
      st r.val = addRoundKey (mixColumns cfg (shiftRows cfg (subBytes cfg (st (r.val - 1))))) K[r] := by
  refine ⟨aes512, lanes, ready.rk, roundStates aes512 lanes ready.rk, rfl, ?_⟩
  rintro ⟨r, hr⟩ h1 -
  obtain ⟨n, rfl⟩ : ∃ n, r = n + 1 := ⟨r - 1, by simp at h1; omega⟩
  show roundStates aes512 lanes ready.rk (n + 1) = _
  rw [roundStates, dif_pos hr]
  rfl

/-- Halted; not fully supplied; no key; ready: the four cases of `StepCommandsTransformBlk`, `ArkXorsRoundKey`, `EncEncryptsBlk`,
`DecUndoesEnc`, `StepCommandsComputeEncAndDec`. -/
theorem witness_block_commands :
    (halted ready).err = true ∧
    (∃ s : State, s.err = false ∧ s.blkfill ≠ 0xF#4) ∧
    (∃ s : State, s.err = false ∧ s.blkfill = 0xF#4 ∧ s.kv = false) ∧
    (ready.err = false ∧ ready.blkfill = 0xF#4 ∧ ready.kv = true) :=
  ⟨rfl, ⟨{ ready with blkfill := 0xE#4 }, rfl, by decide⟩, ⟨{ ready with kv := false }, rfl, rfl, rfl⟩, rfl, rfl, rfl⟩

theorem witness_KexpDerivesRoundKeys :
    (halted ready).err = true ∧ (∃ s : State, s.err = false ∧ s.keyfill ≠ 0xFFFF#16) ∧
    (ready.err = false ∧ ready.keyfill = 0xFFFF#16) :=
  ⟨rfl, ⟨{ ready with keyfill := 0xFFFE#16 }, rfl, by decide⟩, rfl, rfl⟩

theorem exec_kexp_ready : exec .kexp ready = .next ready :=
  (exec_kexp ready).trans (command_admitted rfl (by decide))

theorem witness_KexpTwiceIsKexpOnce : exec .kexp ready = .next ready ∧ ready.err = false := ⟨exec_kexp_ready, rfl⟩

/-- One state for each clause of `EcbPreconditionsInOrder`, from 95_test_vectors 2.8: no key; a sequence one block too long; sums
that would wrap; overlapping by one block; no block, with the operands at their largest value. -/
theorem witness_EcbPreconditionsInOrder :
    (State.reset.err = false ∧ State.reset.kv = false) ∧
    (∀ o ∈ [(0, 0, 257), (255, 0, 2), (0, 255, 2), (0xFFFFFFFF, 0, 1)], ∃ s : State,
      s.src.toNat = o.1 ∧ s.dst.toNat = o.2.1 ∧ s.count.toNat = o.2.2 ∧ s.err = false ∧ s.kv = true ∧ 0 < s.count.toNat ∧
      (s.src.toNat + s.count.toNat > aes512.nblk ∨ s.dst.toNat + s.count.toNat > aes512.nblk)) ∧
    (∃ s : State, s.err = false ∧ s.kv = true ∧ 0 < s.count.toNat ∧ s.src.toNat + s.count.toNat ≤ aes512.nblk ∧
      s.dst.toNat + s.count.toNat ≤ aes512.nblk ∧ s.src.toNat ≠ s.dst.toNat ∧
      max s.src.toNat s.dst.toNat - min s.src.toNat s.dst.toNat < s.count.toNat) ∧
    (∃ s : State, s.src = 0xFFFFFFFF#32 ∧ s.dst = 0xFFFFFFFF#32 ∧ s.err = false ∧ s.kv = true ∧ s.count.toNat = 0) := by
  refine ⟨⟨rfl, rfl⟩, ?_, ⟨{ ready with src := 0#32, dst := 127#32, count := 128#32 }, rfl, rfl, by decide⟩,
    ⟨{ ready with src := 0xFFFFFFFF#32, dst := 0xFFFFFFFF#32 }, rfl, rfl, rfl, rfl, rfl⟩⟩
  rintro ⟨a, b, n⟩ ho
  refine ⟨{ ready with src := BitVec.ofNat 32 a, dst := BitVec.ofNat 32 b, count := BitVec.ofNat 32 n }, ?_⟩
  simp only [List.mem_cons, List.not_mem_nil, or_false, Prod.mk.injEq] at ho
  obtain ⟨rfl, rfl, rfl⟩ | ⟨rfl, rfl, rfl⟩ | ⟨rfl, rfl, rfl⟩ | ⟨rfl, rfl, rfl⟩ := ho <;>
    exact ⟨rfl, rfl, rfl, rfl, rfl, by decide⟩

/-- Admitted (95_test_vectors 2.8): no block; the whole memory in place; the last block; side by side. For `EcbencEncryptsSequence`
and `EcbdecDecryptsSequence`. -/
theorem witness_ecb_admitted :
    EcbAdmitted aes512.nblk { ready with src := 0xFFFFFFFF#32, dst := 10#32, count := 0#32 } ∧
    EcbAdmitted aes512.nblk { ready with src := 0#32, dst := 0#32, count := 256#32 } ∧
    EcbAdmitted aes512.nblk { ready with src := 255#32, dst := 0#32, count := 1#32 } ∧
    EcbAdmitted aes512.nblk { ready with src := 0#32, dst := 128#32, count := 128#32 } :=
  ⟨⟨rfl, rfl, fun h => absurd h (by decide)⟩, ⟨rfl, rfl, fun _ => ⟨by decide, by decide, .inl rfl⟩⟩,
    ⟨rfl, rfl, fun _ => ⟨by decide, by decide, .inr (.inr (by decide))⟩⟩,
    ⟨rfl, rfl, fun _ => ⟨by decide, by decide, .inr (.inl (by decide))⟩⟩⟩

theorem witness_EcbRoundTripForAnyConfig : ∃ (cfg : Config) (s t u : State) (place : Word),
    cfg.Lawful ∧ EcbAdmitted cfg.nblk s ∧ 0 < s.count.toNat ∧ execWith cfg .ecbenc s = .next t ∧
    EcbAdmitted cfg.nblk { t with src := s.dst, dst := place } ∧
    execWith cfg .ecbdec { t with src := s.dst, dst := place } = .next u := by
  let s : State := { ecbReady with dst := 1#32 }
  let t : State := ecbEffect (encrypt toyConfig) s
  let v : State := { t with src := s.dst, dst := 0#32 }
  refine ⟨toyConfig, s, t, ecbEffect (decrypt toyConfig) v, 0#32, toyConfig_lawful, ⟨rfl, rfl, by decide⟩, by decide, ?_,
    ⟨rfl, rfl, ?_⟩, ?_⟩
  · exact ecbCommand_admitted (cfg := toyConfig) (s := s) _ rfl rfl (by decide) (by decide)
  · show 0 < 1 → (1 + 1 ≤ 2 ∧ 0 + 1 ≤ 2 ∧ ((1#32 : Word) = 0#32 ∨ 1 + 1 ≤ 0 ∨ 0 + 1 ≤ 1))
    decide
  · exact ecbCommand_admitted (cfg := toyConfig) (s := v) _ rfl rfl rfl rfl

/-- Also for `CommandsWriteOnlyTheirState` and the second clause of `EcbOperandRegisters`. -/
theorem witness_EcbDoesNotUseBlk : exec .ecbdec ecbReady =
    .next { ecbReady with dmem := memWrite ecbReady.dmem 255 (hexBlock 0x3d96a82158adc8437518ee4e9403f271) } := test_ecbdec

/-- The clauses of `CommandsWriteOnlyTheirState` for a command that is neither `KEXP` nor an ECB command, and the third clause of
`EcbOperandRegisters`. -/
theorem witness_CommandsWriteOnlyTheirState : exec .enc ready = .next { ready with blk := hexBlock 0xabd92eacfa38d49c32b717d68acdba4d } ∧
    Instr.enc ≠ .kexp ∧ isEcb .enc = false := ⟨test_enc, by decide, rfl⟩

theorem witness_CommandsWriteOnlyTheirState_kexp : exec .kexp ready = .next ready ∧ isEcb .kexp = false := ⟨exec_kexp_ready, rfl⟩

theorem witness_BlockMemoryReadsAndWrites : (15 < 16 * 1 ∨ 16 * 1 + 16 ≤ 15) ∧ (32 < 16 * 1 ∨ 16 * 1 + 16 ≤ 32) ∧ (0 : Nat) ≠ 1 := by
  decide

/-- The first and the last word of the data window. -/
theorem witness_DataWindowReadsAndWrites : ∀ p ∈ [(0, 0x1000#32), (1023, 0x1FFC#32)],
    p.1 < 4 * aes512.nblk ∧ p.2.toNat = 0x1000 + 4 * p.1 ∧
    (waiting ready [.rd p.2]).pending = .rd p.2 :: [] ∧
    (waiting ready [.wr p.2 1#32]).pending = .wr p.2 1#32 :: [] ∧ (waiting ready [.wr p.2 1#32]).err = false := by
  intro p hp
  refine ⟨?_, ?_, rfl, rfl, rfl⟩ <;> (revert p; decide)

/-- The same word read back, and another. -/
theorem witness_ReadReturnsMostRecentWrite : ∀ p ∈ [(1023, 0x1FFC#32), (0, 0x1000#32)],
    ready.err = false ∧ 1023 < 4 * aes512.nblk ∧ (0x1FFC#32).toNat = 0x1000 + 4 * 1023 ∧ p.1 < 4 * aes512.nblk ∧
    p.2.toNat = 0x1000 + 4 * p.1 ∧
    (waiting ready [.wr 0x1FFC#32 7#32, .rd p.2]).pending = .wr 0x1FFC#32 7#32 :: .rd p.2 :: [] := by
  intro p hp
  refine ⟨rfl, by decide, by decide, ?_, ?_, rfl⟩ <;> (revert p; decide)

theorem witness_WordsAreLittleEndian : (waiting ready [.wr 0x020#32 0x33221100#32]).pending = .wr 0x020#32 0x33221100#32 :: [] ∧
    (waiting ready [.wr 0x020#32 0x33221100#32]).err = false := ⟨rfl, rfl⟩

/-- Every clause of `HostWriteByOffset` at the ends of its range; the offsets are those of the statement. -/
theorem witness_HostWriteByOffset :
    (∀ off : Word, (waiting ready [.wr off 1#32]).pending = .wr off 1#32 :: [] ∧ (waiting ready [.wr off 1#32]).err = false ∧
      (waiting (halted ready) [.wr off 1#32]).pending = .wr off 1#32 :: [] ∧ (waiting (halted ready) [.wr off 1#32]).err = true) ∧
    (∀ o ∈ [0x001, 0x003, 0x1001, 0x2002, 0xFFFFFFFF], o % 4 ≠ 0) ∧
    (decode 1#32 = .ok .kexp ∧ (decode? 0#32).isNone = true) ∧
    (0x020 = 0x020 + 4 * (0 : Fin 4).val ∧ 0x02C = 0x020 + 4 * (3 : Fin 4).val) ∧
    (0x040 = 0x040 + 4 * (0 : Fin 16).val ∧ 0x07C = 0x040 + 4 * (15 : Fin 16).val) ∧
    (0x1000 = 0x1000 + 4 * 0 ∧ 1023 < 4 * aes512.nblk ∧ 0x1FFC = 0x1000 + 4 * 1023) ∧
    ∀ o ∈ [0x004, 0x014, 0x01C, 0x030, 0x03C, 0x080, 0x0FC, 0x100, 0x1FC, 0x200, 0xFFC, 0x2000, 0xFFFFFFFC],
      o % 4 = 0 ∧ (o = 0x004 ∨ (0x014 ≤ o ∧ o < 0x020) ∨ (0x030 ≤ o ∧ o < 0x040) ∨ (0x080 ≤ o ∧ o < 0x1000) ∨
        0x1000 + 16 * aes512.nblk ≤ o) :=
  ⟨fun _ => ⟨rfl, rfl, rfl, rfl⟩, by decide, by decide, by decide, by decide, by decide, by decide⟩

/-- Every clause of `HostReadByOffset` at the ends of its range. -/
theorem witness_HostReadByOffset :
    (∀ off : Word, (waiting ready [.rd off]).pending = .rd off :: []) ∧
    (0x100 = 0x100 + 16 * (0 : Fin 16).val + 4 * (0 : Fin 4).val ∧ 0x1FC = 0x100 + 16 * (15 : Fin 16).val + 4 * (3 : Fin 4).val) ∧
    ∀ o ∈ [0x001, 0x003, 0x000, 0x014, 0x01C, 0x030, 0x03C, 0x080, 0x0FC, 0x200, 0xFFC, 0x2000, 0xFFFFFFFF],
      o % 4 ≠ 0 ∨ o = 0x000 ∨ (0x014 ≤ o ∧ o < 0x020) ∨ (0x030 ≤ o ∧ o < 0x040) ∨ (0x080 ≤ o ∧ o < 0x100) ∨
        (0x200 ≤ o ∧ o < 0x1000) ∨ 0x1000 + 16 * aes512.nblk ≤ o :=
  ⟨fun _ => rfl, by decide, by decide⟩

theorem witness_StatusPresentsTheFlags :
    (waiting ready [.rd 0x004#32]).pending = .rd 0x004#32 :: [] ∧
    ((waiting ready [.wr 0x004#32 9#32]).pending = .wr 0x004#32 9#32 :: [] ∧ (waiting ready [.wr 0x004#32 9#32]).err = false) ∧
    (ready.kv = true ∧ ready.err = false ∧ ready.ecode = 0#4 ∧ ready.blkfill = 0xF#4 ∧ ready.keyfill = 0xFFFF#16) :=
  ⟨rfl, ⟨rfl, rfl⟩, rfl, rfl, rfl, rfl, rfl⟩

theorem witness_EcbOperandRegisters : ∀ off ∈ [0x008#32, 0x00C#32, 0x010#32], ready.err = false ∧
    (waiting ready [.wr off 0xFFFFFFFF#32, .rd off]).pending = .wr off 0xFFFFFFFF#32 :: .rd off :: [] :=
  fun _ _ => ⟨rfl, rfl⟩

theorem witness_HaltedIgnoresWrites : (halted ready).err = true ∧
    (waiting (halted ready) [.wr 0x000#32 1#32]).pending = .wr 0x000#32 1#32 :: [] ∧
    (waiting (halted ready) [.rd 0x1FFC#32]).pending = .rd 0x1FFC#32 :: [] ∧ (0x1FFC#32 : Word) ≠ 0x004#32 :=
  ⟨rfl, rfl, rfl, by decide⟩

theorem witness_ResetClearsEveryRegister : (waiting (halted ready) [.reset, .rd 0x004#32]).pending = .reset :: [.rd 0x004#32] := rfl

theorem witness_AfterResetNoCommandSucceeds : ∃ s, s ≠ State.reset ∧ ∃ u, s = resetBlock u :=
  ⟨resetBlock ready, fun h => absurd (congrArg (fun s => s.dmem.draw) h) (by decide), ready, rfl⟩

/-- An idle step; a write and a reset, which return nothing; a read. -/
theorem witness_StepTakesOneHostStep :
    ready.pending = [] ∧
    (∃ t, step (waiting ready [.reset]) = .next t ∧ ∀ off rest, (waiting ready [.reset]).pending ≠ .rd off :: rest) ∧
    (∃ t, step (waiting ready [.rd 0x004#32]) = .next t ∧ (waiting ready [.rd 0x004#32]).pending = .rd 0x004#32 :: []) :=
  ⟨rfl, ⟨_, rfl, fun _ _ h => by cases h⟩, ⟨_, rfl, rfl⟩⟩

theorem step_bad_write : step (waiting ready [.wr 0x100#32 0#32]) = .next (halted ready) := rfl

theorem witness_ErrorEntryWritesNothingElse : step (waiting ready [.wr 0x100#32 0#32]) = .next (halted ready) ∧
    (waiting ready [.wr 0x100#32 0#32]).err = false ∧ (halted ready).err = true := ⟨rfl, rfl, rfl⟩

theorem witness_OnlyResetLeavesHalted :
    (step (waiting (halted ready) [.wr 0x000#32 1#32]) = .next (halted ready) ∧ (halted ready).err = true ∧
      (waiting (halted ready) [.wr 0x000#32 1#32]).pending.head? ≠ some .reset) ∧
    (step (waiting (halted ready) [.reset]) = .next (resetBlock ready) ∧
      (waiting (halted ready) [.reset]).pending.head? = some .reset) :=
  ⟨⟨rfl, rfl, by decide⟩, rfl, rfl⟩

/-- A step with a cause, one with none, and one in the halted state. -/
theorem witness_LowestCauseIsReported :
    ((waiting ready [.wr 0x100#32 0#32]).pending = .wr 0x100#32 0#32 :: [] ∧ ready.err = false ∧
      (errorCauses aes512.nblk (.wr 0x100#32 0#32) ready).min? = some 7) ∧
    (errorCauses aes512.nblk (.wr 0x000#32 4#32) { State.reset with src := 4#32, dst := 5#32, count := 300#32 } = [4, 5, 6]) ∧
    ((waiting ready [.wr 0x000#32 2#32]).pending = .wr 0x000#32 2#32 :: [] ∧
      (errorCauses aes512.nblk (.wr 0x000#32 2#32) ready).min? = none) ∧
    ((halted ready).err = true ∧ HostStep.wr 0x000#32 2#32 ≠ .reset) :=
  ⟨⟨rfl, rfl, by decide⟩, by decide, ⟨rfl, by decide⟩, rfl, by decide⟩

theorem witness_OnlyKexpWritesRoundKeys :
    (∃ s t : State, step s = .next t ∧ (t.rk ≠ s.rk ∨ t.kv ≠ s.kv) ∧ s.pending.head? = some (.wr 0x000#32 0x00000001#32)) ∧
    (∃ s t : State, step s = .next t ∧ (t.rk ≠ s.rk ∨ t.kv ≠ s.kv) ∧ s.pending.head? = some .reset) :=
  ⟨⟨waiting { ready with kv := false } [.wr 0x000#32 0x00000001#32], ready, rfl, .inr (by decide), rfl⟩,
    ⟨waiting ready [.reset], resetBlock ready, rfl, .inr (by decide), rfl⟩⟩

/-- The ready state, with a step to come, meets the invariant. -/
theorem witness_StepKeepsInvariant : Inv (waiting ready [.wr 0x100#32 0#32]) ∧
    step (waiting ready [.wr 0x100#32 0#32]) = .next (halted ready) := by
  refine ⟨⟨rfl, rfl, fun _ => rfl, fun h => (by cases h), fun _ => ⟨countKey, rfl⟩, fun h => (by cases h), fun _ => rfl, ?_, ?_⟩, rfl⟩
  · show ∀ i : Fin 16, (0xFFFF#16).getLsbD i.val = false → _
    intro i h
    exact absurd h (by revert i; decide)
  · show ∀ j : Fin 4, (0xF#4).getLsbD j.val = false → _
    intro j h
    exact absurd h (by revert j; decide)

/-- A state with the flags of the ready state and other data: key, round keys, block and memory. -/
def otherData : State :=
  { ready with
    key := Vector.replicate 64 0#8, rk := Vector.replicate 16 zeroBlock, blk := zeroBlock, dmem := writeByte ready.dmem 0 1#8 }

/-- Two states with different keys, round keys, blocks and memories. -/
theorem witness_ControlIsIndependentOfData : ∃ s t s' t' : State,
    SameControl s t ∧ s.key ≠ t.key ∧ s.rk ≠ t.rk ∧ s.blk ≠ t.blk ∧ s.dmem ≠ t.dmem ∧
    Sys2Proof.core.run 1 s = .next s' ∧ Sys2Proof.core.run 1 t = .next t' := by
  refine ⟨waiting ready [.wr 0x000#32 8#32], waiting otherData [.wr 0x000#32 8#32], _, _,
    ⟨rfl, rfl, rfl, rfl, rfl, rfl, rfl, rfl, rfl⟩, by decide +kernel, by decide +kernel, by decide +kernel,
    by decide +kernel, rfl, rfl⟩

end Sys2Proof.Tests
end

/-! SUPPORT. The `STATUS` register (10_state R30) and the operand registers of the ECB commands (10_state R28). -/

namespace Sys2Proof.Machine

/-! ### One host step -/

/-- The word a read returns does not depend on the host steps still to come. -/
@[simp] theorem hostRead_pending (cfg : Config) (off : Word) (s : State) (rest : List HostStep) :
    hostRead cfg off { s with pending := rest } = hostRead cfg off s := by
  unfold hostRead
  cases regAt cfg.nblk off <;> rfl

/-- A read records the word at its offset and changes nothing of the block (20_memory R57). -/
theorem step_read {s : State} {off : Word} {rest : List HostStep} (hp : s.pending = .rd off :: rest) :
    step s = .next { s with pending := rest, returned := s.returned ++ [hostRead aes512 off s] } := by
  rw [step_issue hp, hostStep, hostRead_pending]

/-- A step that issues a write is that write, on the state with it taken off the list. -/
theorem step_write {s : State} {off v : Word} {rest : List HostStep} (hp : s.pending = .wr off v :: rest) :
    step s = hostWrite aes512 exec off v { s with pending := rest } := by
  rw [step_issue hp, hostStep]

/-! ### What stands at the offset -/

section
variable {cfg : Config} {run : Instr → State → Host.Outcome State Fault Refusal} {off v : Word} {s : State}

theorem hostRead_status (ho : regAt cfg.nblk off = .status) : hostRead cfg off s = statusWord s := by
  simp only [hostRead, ho]

theorem hostRead_src (ho : regAt cfg.nblk off = .src) : hostRead cfg off s = s.src := by
  simp only [hostRead, ho]

theorem hostRead_dst (ho : regAt cfg.nblk off = .dst) : hostRead cfg off s = s.dst := by
  simp only [hostRead, ho]

theorem hostRead_count (ho : regAt cfg.nblk off = .count) : hostRead cfg off s = s.count := by
  simp only [hostRead, ho]

/-- `STATUS` is read-only: a write to it raises `E_ADDR` (44_host_access R165). -/
theorem hostWrite_status (h : s.err = false) (ho : regAt cfg.nblk off = .status) :
    hostWrite cfg run off v s = .next (raiseError .addr s) := by
  simp [hostWrite, h, ho]

theorem hostWrite_src (h : s.err = false) (ho : regAt cfg.nblk off = .src) :
    hostWrite cfg run off v s = .next { s with src := v } := by
  simp [hostWrite, h, ho]

theorem hostWrite_dst (h : s.err = false) (ho : regAt cfg.nblk off = .dst) :
    hostWrite cfg run off v s = .next { s with dst := v } := by
  simp [hostWrite, h, ho]

theorem hostWrite_count (h : s.err = false) (ho : regAt cfg.nblk off = .count) :
    hostWrite cfg run off v s = .next { s with count := v } := by
  simp [hostWrite, h, ho]

end

/-! ### The fields of `STATUS` -/

/-- The flags `KV` and `ERR` and the two bits kept 0 above them. -/
theorem statusWord_bits (s : State) :
    (statusWord s)[0] = s.kv ∧ (statusWord s)[1] = s.err ∧ (statusWord s)[2] = false ∧ (statusWord s)[3] = false := by
  simp only [← BitVec.getLsbD_eq_getElem, statusWord, BitVec.getLsbD_append]
  simp

/-- The wider fields: what lies below each of them in the sum `statusWord_toNat` is smaller than the field's place. -/
theorem statusWord_slices (s : State) :
    (statusWord s).extractLsb' 4 4 = s.ecode ∧ (statusWord s).extractLsb' 8 4 = s.blkfill ∧
    (statusWord s).extractLsb' 12 4 = 0x0#4 ∧ (statusWord s).extractLsb' 16 16 = s.keyfill := by
  have hsum := statusWord_toNat s
  have hkv := Bool.toNat_lt s.kv
  have herr := Bool.toNat_lt s.err
  have hecode := s.ecode.isLt
  have hblkfill := s.blkfill.isLt
  have hkeyfill := s.keyfill.isLt
  refine ⟨?_, ?_, ?_, ?_⟩ <;> apply BitVec.eq_of_toNat_eq <;>
    simp only [BitVec.extractLsb'_toNat, Nat.shiftRight_eq_div_pow, BitVec.toNat_ofNat] <;> omega

/-- `STATUS` when a key and a block are fully supplied, the round keys are valid and no error is recorded. -/
theorem statusWord_ready {s : State} (hkv : s.kv = true) (herr : s.err = false) (hecode : s.ecode = 0#4)
    (hblk : s.blkfill = 0xF#4) (hkey : s.keyfill = 0xFFFF#16) : statusWord s = 0xFFFF0F01#32 := by
  rw [statusWord, hkv, herr, hecode, hblk, hkey]
  rfl

/-- Settles O40: a read of offset 0x004 returns `statusWord`, whose bits and slices are the flags; a write there raises `E_ADDR`. -/
theorem statusPresentsTheFlags : Obligations.StatusPresentsTheFlags := by
  intro s rest
  have ho : regAt aes512.nblk 0x004#32 = .status := regAt_status rfl
  refine ⟨fun hp => ⟨statusWord s, ?_, ?_⟩, fun v hp herr => ?_, rfl⟩
  · rw [step_read hp, hostRead_status ho]
  · obtain ⟨hkv, herr, h2, h3⟩ := statusWord_bits s
    obtain ⟨hecode, hblkfill, h12, hkeyfill⟩ := statusWord_slices s
    exact ⟨hkv, herr, h2, h3, hecode, hblkfill, h12, hkeyfill, statusWord_toNat s, statusWord_ready⟩
  · rw [step_write hp]
    exact hostWrite_status herr ho

/-! ### The operand registers -/

/-- No command writes `SRC`, `DST` or `COUNT`. -/
theorem exec_keeps_operands {i : Instr} {s t : State} (h : exec i s = .next t) :
    t.src = s.src ∧ t.dst = s.dst ∧ t.count = s.count := by
  have hr := exec_result i s
  rw [h] at hr
  cases hr with
  | halted | raised | block | keys | ecb => exact ⟨rfl, rfl, rfl⟩

/-- The state with other values in `SRC`, `DST` and `COUNT`. -/
def State.withOperands (src dst count : Word) (s : State) : State := { s with src := src, dst := dst, count := count }

/-- A command with a precondition that fails raises the error of the first one (60_exceptions R190). -/
theorem command_violated {pre : List (Bool × ErrCode)} {effect : State → State} {s : State} {e : ErrCode}
    (h : s.err = false) (hv : firstViolation pre = some e) : command pre effect s = .next (raiseError e s) := by
  simp [command, h, hv]

/-- A command whose preconditions are the same and whose effect commutes with other operand registers runs the same with them. -/
theorem command_withOperands {pre : List (Bool × ErrCode)} {effect : State → State} {s t : State} {src dst count : Word}
    (heff : effect (s.withOperands src dst count) = (effect s).withOperands src dst count)
    (h : command pre effect s = .next t) :
    command pre effect (s.withOperands src dst count) = .next (t.withOperands src dst count) := by
  cases herr : s.err with
  | true =>
    rw [command_halted herr] at h
    cases h
    exact command_halted herr
  | false =>
    have herr' : (s.withOperands src dst count).err = false := herr
    cases hv : firstViolation pre with
    | some e =>
      rw [command_violated herr hv] at h
      cases h
      exact command_violated herr' hv
    | none =>
      have hpre := (firstViolation_eq_none pre).1 hv
      rw [command_admitted herr hpre] at h
      cases h
      rw [command_admitted herr' hpre, heff]

/-- A command that is no ECB command neither reads nor writes the operand registers. -/
theorem exec_withOperands {i : Instr} {s t : State} (src dst count : Word) (hi : isEcb i = false) (h : exec i s = .next t) :
    exec i (s.withOperands src dst count) = .next (t.withOperands src dst count) := by
  cases i with
  | ecbenc | ecbdec => cases hi
  | kexp | enc | dec | sub | shr | mix | ark | isub | ishr | imix =>
    simp only [exec_kexp, exec_enc, exec_dec, exec_sub, exec_shr, exec_mix, exec_ark, exec_isub, exec_ishr, exec_imix] at h ⊢
    exact command_withOperands rfl h

/-- A write that leaves the host's list alone, then a read of the same offset: the read sees the state the write left. -/
theorem step_write_read {s t : State} {off v : Word} {rest : List HostStep}
    (hp : s.pending = .wr off v :: .rd off :: rest)
    (hw : hostWrite aes512 exec off v { s with pending := .rd off :: rest } = .next t) (ht : t.pending = .rd off :: rest) :
    step s = .next t ∧ step t = .next { t with pending := rest, returned := t.returned ++ [hostRead aes512 off t] } :=
  ⟨(step_write hp).trans hw, step_read ht⟩

/-- Settles O41: a written operand register reads back; the commands keep the three registers; the commands but `ECBENC` and
`ECBDEC` run the same whatever they hold. -/
theorem ecbOperandRegisters : Obligations.EcbOperandRegisters := by
  refine ⟨fun s off v rest hoff herr hp => ?_, fun i s t h => exec_keeps_operands h,
    fun i s t src dst count hi h => exec_withOperands src dst count hi h⟩
  simp only [List.mem_cons, List.not_mem_nil, or_false] at hoff
  obtain rfl | rfl | rfl := hoff
  · have ho : regAt aes512.nblk 0x008#32 = .src := regAt_src rfl
    obtain ⟨hwrite, hread⟩ := step_write_read hp (hostWrite_src herr ho) rfl
    rw [hostRead_src ho] at hread
    exact ⟨_, _, hwrite, hread, rfl, herr, fun _ => ⟨rfl, rfl, rfl⟩, by simp, by simp⟩
  · have ho : regAt aes512.nblk 0x00C#32 = .dst := regAt_dst rfl
    obtain ⟨hwrite, hread⟩ := step_write_read hp (hostWrite_dst herr ho) rfl
    rw [hostRead_dst ho] at hread
    exact ⟨_, _, hwrite, hread, rfl, herr, by simp, fun _ => ⟨rfl, rfl, rfl⟩, by simp⟩
  · have ho : regAt aes512.nblk 0x010#32 = .count := regAt_count rfl
    obtain ⟨hwrite, hread⟩ := step_write_read hp (hostWrite_count herr ho) rfl
    rw [hostRead_count ho] at hread
    exact ⟨_, _, hwrite, hread, rfl, herr, by simp, by simp, fun _ => ⟨rfl, rfl, rfl⟩⟩

end Sys2Proof.Machine

/-! SUPPORT. The host's data window (20_memory R54). -/

namespace Sys2Proof.Machine

/-! ### A word of the window at its offset -/

section
variable {cfg : Config} {run : Instr → State → Host.Outcome State Fault Refusal} {off v : Word} {s : State} {n : Nat}

theorem hostRead_dmemw (ho : regAt cfg.nblk off = .dmemw n) : hostRead cfg off s = readMemWord s.dmem n := by
  simp only [hostRead, ho]

theorem hostWrite_dmemw (h : s.err = false) (ho : regAt cfg.nblk off = .dmemw n) :
    hostWrite cfg run off v s = .next { s with dmem := writeMemWord s.dmem n v } := by
  simp [hostWrite, h, ho]

end

/-! ### The word and the memory's bytes and blocks -/

/-- Word n of the window is word n mod 4 of block n div 4: the address 16 (n div 4) + 4 (n mod 4) is 4 n. -/
theorem readMemWord_eq_wordAt (m : Memory) (n : Nat) (h : 4 * (n % 4) + 3 < 16) :
    readMemWord m n = wordAt (memRead m (n / 4)) (n % 4) h := by
  have haddr : 16 * (n / 4) + 4 * (n % 4) = 4 * n := by omega
  simp only [readMemWord, wordAt, getElem_memRead, ← Nat.add_assoc, haddr]

/-- The bytes a written word sets. -/
theorem readByte_writeMemWord_same (m : Memory) (n : Nat) (v : Word) (k : Fin 4) :
    readByte (writeMemWord m n v) (4 * n + k.val) = v.extractLsb' (8 * k.val) 8 := by
  have hword : (4 * n + k.val) / 4 = n := by omega
  have hbyte : (4 * n + k.val) % 4 = k.val := by omega
  rw [readByte_writeMemWord, if_pos hword, hbyte, wordByte]

/-- The bytes a written word leaves as they are. -/
theorem readByte_writeMemWord_other (m : Memory) {n x : Nat} (v : Word) (hx : x / 4 ≠ n) :
    readByte (writeMemWord m n v) x = readByte m x := by
  rw [readByte_writeMemWord, if_neg hx]

/-- Settles O35: a read returns `readMemWord`, which is word n mod 4 of block n div 4; a write leaves `writeMemWord`, whose four
bytes at 4 n are the written word's and whose other bytes are kept. -/
theorem dataWindowReadsAndWrites : Obligations.DataWindowReadsAndWrites := by
  intro s n off rest hn hoff
  have ho : regAt aes512.nblk off = .dmemw n := regAt_dmemw hn hoff
  refine ⟨fun hp => ⟨readMemWord s.dmem n, ?_, leWord_toNat .., readMemWord_eq_wordAt ..⟩,
    fun v hp herr => ⟨writeMemWord s.dmem n v, ?_, readByte_writeMemWord_same s.dmem n v,
      fun x hx => readByte_writeMemWord_other s.dmem v hx⟩⟩
  · rw [step_read hp, hostRead_dmemw ho]
  · rw [step_write hp]
    exact hostWrite_dmemw herr ho

end Sys2Proof.Machine

/-! SUPPORT. Illegal command words (30_encoding R72, R73), and the error they raise (60_exceptions R182). -/

namespace Sys2Proof

/-! ### The fields of a command word and the three tests, as numbers -/

@[simp] theorem toNat_cmdFields_op (w : Word) : (cmdFields w).op.toNat = w.toNat % 2 ^ 8 := by
  simp [cmdFields, BitVec.extractLsb'_toNat]

@[simp] theorem toNat_cmdFields_r (w : Word) : (cmdFields w).r.toNat = w.toNat / 2 ^ 8 % 2 ^ 4 := by
  simp [cmdFields, BitVec.extractLsb'_toNat, Nat.shiftRight_eq_div_pow]

@[simp] theorem toNat_cmdFields_zero (w : Word) : (cmdFields w).zero.toNat = w.toNat / 2 ^ 12 := by
  have hw := w.isLt
  simp only [cmdFields, BitVec.extractLsb'_toNat, Nat.shiftRight_eq_div_pow]
  omega

theorem CmdFields.zeroOk_iff (f : CmdFields) : f.zeroOk = true ↔ f.zero.toNat = 0 := by
  simp [CmdFields.zeroOk, ← BitVec.toNat_inj]

theorem CmdFields.opOk_iff (f : CmdFields) : f.opOk = true ↔
    f.op.toNat ≠ 0x00 ∧ f.op.toNat ≠ 0x06 ∧ f.op.toNat ≠ 0x07 ∧ f.op.toNat < 0x0F := by
  simp [CmdFields.opOk, ← BitVec.toNat_inj, and_assoc]

theorem CmdFields.roundOk_iff (f : CmdFields) : f.roundOk = true ↔ f.op.toNat = 0x0B ∨ f.r.toNat = 0 := by
  simp [CmdFields.roundOk, ← BitVec.toNat_inj]

theorem CmdFields.wf_iff (f : CmdFields) : f.wf = true ↔ f.zeroOk = true ∧ f.opOk = true ∧ f.roundOk = true := by
  simp [CmdFields.wf, and_assoc]

/-! ### The decoder accepts only words that pass the three tests -/

/-- The values 30_encoding R73 lists as illegal are not in the `OP` column of R72. -/
theorem CmdFields.opOk_of_instrOfOp {f : CmdFields} {i : Instr} (h : instrOfOp f.op f.r = some i) : f.opOk = true := by
  rw [CmdFields.opOk_iff]
  unfold instrOfOp at h
  split at h
  case h_13 => cases h
  all_goals omega

theorem wf_of_decode_ok {w : Word} {i : Instr} (h : decode w = .ok i) : (cmdFields w).wf = true := by
  simp only [decode] at h
  split at h
  case isTrue => cases h
  case isFalse hzero =>
    split at h
    case h_1 => cases h
    case h_2 j hop =>
      split at h
      case isTrue => cases h
      case isFalse hround =>
        refine (CmdFields.wf_iff _).2 ⟨?_, CmdFields.opOk_of_instrOfOp hop, ?_⟩
        · simpa [CmdFields.zeroOk] using hzero
        · simpa [CmdFields.roundOk, or_iff_not_imp_right] using hround

theorem decode_error_of_not_wf {w : Word} (h : ¬(cmdFields w).wf = true) : ∃ e, decode w = .error e := by
  cases hd : decode w with
  | error e => exact ⟨e, rfl⟩
  | ok i => exact absurd (wf_of_decode_ok hd) h

namespace Machine

/-! ### The write of an illegal word -/

theorem writeCmd_illegal {run : Instr → State → Host.Outcome State Fault Refusal} {w : Word} {e : IllegalWord} {s : State}
    (hd : decode w = .error e) : writeCmd run w s = .next (raiseError .illCmd s) := by
  simp only [writeCmd, hd]

/-- A word the decoder refuses, written to `CMD`, raises `E_ILLCMD` and changes nothing else (60_exceptions R182). -/
theorem hostWrite_illegal {cfg : Config} {run : Instr → State → Host.Outcome State Fault Refusal} {w : Word} {e : IllegalWord}
    {s : State} (herr : s.err = false) (hd : decode w = .error e) : hostWrite cfg run 0#32 w s = raises s 1#4 := by
  rw [hostWrite_cmd herr, writeCmd_illegal hd]
  rfl

/-- Settles O4: a word of each class listed fails one of the three tests, so the decoder refuses it. -/
theorem illegalWordRaisesIllCmd : Obligations.IllegalWordRaisesIllCmd := by
  intro s w rest hp herr hill
  have hwf : ¬(cmdFields w).wf = true := by
    simp only [CmdFields.wf_iff, CmdFields.zeroOk_iff, CmdFields.opOk_iff, CmdFields.roundOk_iff,
      toNat_cmdFields_op, toNat_cmdFields_r, toNat_cmdFields_zero]
    omega
  obtain ⟨e, hd⟩ := decode_error_of_not_wf hwf
  rw [step_write hp]
  exact hostWrite_illegal herr hd

end Machine

end Sys2Proof

/-! SUPPORT. The byte field of 40_round_primitives R91, for every reduction polynomial: `gmul` is bilinear, and multiplication
on one side commutes with multiplication on the other. -/

namespace Sys2Proof.Machine

section
variable (p : BitVec 9)

/-! ### `xtime` and its powers are linear -/

/-- The shift, then the reduction by the low byte of the polynomial when bit 7 was set. -/
theorem xtime_eq_shift_xor (a : Byte) : xtime p a = a <<< 1 ^^^ if a.getLsbD 7 then p.truncate 8 else 0#8 := by
  unfold xtime
  split
  · ext i hi
    rcases i with _ | i <;> simp (disch := omega) [BitVec.getElem_setWidth, BitVec.getElem_shiftLeft]
  · exact BitVec.xor_zero.symm

theorem xtime_xor (a b : Byte) : xtime p (a ^^^ b) = xtime p a ^^^ xtime p b := by
  have hreduce : (if (a ^^^ b).getLsbD 7 then p.truncate 8 else 0#8) =
      (if a.getLsbD 7 then p.truncate 8 else 0#8) ^^^ (if b.getLsbD 7 then p.truncate 8 else 0#8) := by
    rw [BitVec.getLsbD_xor]
    cases a.getLsbD 7 <;> cases b.getLsbD 7 <;> simp
  rw [xtime_eq_shift_xor, xtime_eq_shift_xor, xtime_eq_shift_xor, hreduce, BitVec.shiftLeft_xor_distrib]
  ac_rfl

theorem xtimePow_xor (i : Nat) (a b : Byte) : xtimePow p i (a ^^^ b) = xtimePow p i a ^^^ xtimePow p i b := by
  induction i with
  | zero => rfl
  | succ i ih => rw [xtimePow, ih, xtime_xor]; rfl

/-- Below bit 8 no reduction takes place. -/
theorem xtimePow_one {i : Nat} (hi : i < 8) : xtimePow p i 0x01#8 = 1#8 <<< i := by
  induction i with
  | zero => rfl
  | succ i ih =>
    have hbit : (1#8 <<< i).getLsbD 7 = false := by
      have : 7 - i ≠ 0 := by omega
      simp [this]
    rw [xtimePow, ih (by omega), xtime_eq_shift_xor, hbit, ← BitVec.shiftLeft_add]
    exact BitVec.xor_zero

/-! ### `gmul` as a sum, and what it takes over from the powers -/

/-- The sum of R91 over the set bits, taken from the other end. -/
theorem gmul_eq_sum (a b : Byte) :
    gmul p a b = ((List.range 8).filter fun i => b.getLsbD i).foldr (fun i x => xtimePow p i a ^^^ x) 0x00#8 := by
  calc gmul p a b = ((List.range 8).filter fun i => b.getLsbD i).foldl (fun x i => x ^^^ xtimePow p i a) 0x00#8 :=
        List.foldl_filter.symm
    _ = (((List.range 8).filter fun i => b.getLsbD i).map (xtimePow p · a)).foldl (· ^^^ ·) 0x00#8 := List.foldl_map.symm
    _ = (((List.range 8).filter fun i => b.getLsbD i).map (xtimePow p · a)).foldr (· ^^^ ·) 0x00#8 := List.foldl_eq_foldr
    _ = _ := List.foldr_map

theorem gmul_xor_left (a b c : Byte) : gmul p (a ^^^ b) c = gmul p a c ^^^ gmul p b c := by
  unfold gmul
  refine List.foldl_hom₂ _ (· ^^^ ·) _ _ _ 0#8 0#8 fun x y i => ?_
  split
  · rw [xtimePow_xor]; ac_rfl
  · rfl

@[simp] theorem gmul_zero_left (b : Byte) : gmul p 0x00#8 b = 0x00#8 := by
  simpa using gmul_xor_left p 0#8 0#8 b

@[simp] theorem gmul_zero_right (a : Byte) : gmul p a 0x00#8 = 0x00#8 := rfl

/-- A map that commutes with `xtime` commutes with its powers. -/
theorem map_xtimePow {f : Byte → Byte} (hx : ∀ a, f (xtime p a) = xtime p (f a)) (i : Nat) (a : Byte) :
    f (xtimePow p i a) = xtimePow p i (f a) := by
  induction i with
  | zero => rfl
  | succ i ih => rw [xtimePow, hx, ih]; rfl

/-- An additive map that commutes with `xtime` passes through the left factor. -/
theorem map_gmul {f : Byte → Byte} (hadd : ∀ a b, f (a ^^^ b) = f a ^^^ f b) (hx : ∀ a, f (xtime p a) = xtime p (f a))
    (a b : Byte) : f (gmul p a b) = gmul p (f a) b := by
  have hzero : f 0#8 = 0#8 := by simpa using hadd 0#8 0#8
  unfold gmul
  rw [← List.foldl_hom f (g₂ := fun x i => if b.getLsbD i then x ^^^ xtimePow p i (f a) else x) (H := fun x i => ?_), hzero]
  split
  · rw [hadd, map_xtimePow p hx]
  · rfl

theorem xtime_gmul (a b : Byte) : xtime p (gmul p a b) = gmul p (xtime p a) b :=
  map_gmul p (xtime_xor p) (fun _ => rfl) a b

/-- Two factors on the right may be exchanged: multiplication by `c` is additive and commutes with `xtime`. -/
theorem gmul_right_comm (a b c : Byte) : gmul p (gmul p a b) c = gmul p (gmul p a c) b :=
  map_gmul p (f := (gmul p · c)) (fun x y => gmul_xor_left p x y c) (fun x => (xtime_gmul p x c).symm) a b

/-! ### The ring laws -/

/-- A power of two as the right factor is a power of `xtime`. -/
theorem gmul_twoPow (a : Byte) {i : Nat} (hi : i < 8) : gmul p a (1#8 <<< i) = xtimePow p i a := by
  have hbits : (List.range 8).filter (fun j => (1#8 <<< i).getLsbD j) = [i] := by
    interval_cases i <;> decide
  rw [gmul_eq_sum, hbits]
  exact BitVec.xor_zero

@[simp] theorem gmul_one_right (a : Byte) : gmul p a 0x01#8 = a := gmul_twoPow p a (i := 0) (by decide)

/-- A byte is the sum of its bits, each at its place. -/
theorem foldr_xor_twoPow (b : Byte) :
    ((List.range 8).filter fun i => b.getLsbD i).foldr (fun i x => 1#8 <<< i ^^^ x) 0x00#8 = b := by
  revert b
  decide +kernel

/-- `xtime^i(1)` is the bit at place i. -/
@[simp] theorem gmul_one_left (b : Byte) : gmul p 0x01#8 b = b := by
  have hbits : ∀ i ∈ (List.range 8).filter (fun i => b.getLsbD i), xtimePow p i 0x01#8 = 1#8 <<< i := fun i hi =>
    xtimePow_one p (List.mem_range.1 (List.mem_filter.1 hi).1)
  rw [gmul_eq_sum, List.foldr_ext _ (fun i x => 1#8 <<< i ^^^ x) _ fun i hi x => by rw [hbits i hi]]
  exact foldr_xor_twoPow b

theorem gmul_comm (a b : Byte) : gmul p a b = gmul p b a := by
  calc gmul p a b = gmul p (gmul p 0x01#8 a) b := by rw [gmul_one_left]
    _ = gmul p (gmul p 0x01#8 b) a := gmul_right_comm p _ a b
    _ = gmul p b a := by rw [gmul_one_left]

theorem gmul_assoc (a b c : Byte) : gmul p (gmul p a b) c = gmul p a (gmul p b c) := by
  rw [gmul_comm p a b, gmul_right_comm, gmul_comm]

theorem gmul_xor_right (a b c : Byte) : gmul p a (b ^^^ c) = gmul p a b ^^^ gmul p a c := by
  rw [gmul_comm, gmul_xor_left, gmul_comm p b, gmul_comm p c]

/-! ### The constant multiples -/

theorem gmul_twoPow_left {i : Nat} (hi : i < 8) (a : Byte) : gmul p (1#8 <<< i) a = xtimePow p i a := by
  rw [gmul_comm, gmul_twoPow p a hi]

theorem gmul_two (a : Byte) : gmul p 0x02#8 a = xtime p a := gmul_twoPow_left p (i := 1) (by decide) a

theorem gmul_four (a : Byte) : gmul p 0x04#8 a = xtimePow p 2 a := gmul_twoPow_left p (i := 2) (by decide) a

theorem gmul_eight (a : Byte) : gmul p 0x08#8 a = xtimePow p 3 a := gmul_twoPow_left p (i := 3) (by decide) a

theorem gmul_three (a : Byte) : gmul p 0x03#8 a = xtime p a ^^^ a := by
  rw [show 0x03#8 = 0x02#8 ^^^ 0x01#8 from rfl, gmul_xor_left, gmul_two, gmul_one_left]

theorem gmul_nine (a : Byte) : gmul p 0x09#8 a = xtimePow p 3 a ^^^ a := by
  rw [show 0x09#8 = 0x08#8 ^^^ 0x01#8 from rfl, gmul_xor_left, gmul_eight, gmul_one_left]

theorem gmul_eleven (a : Byte) : gmul p 0x0b#8 a = xtimePow p 3 a ^^^ xtime p a ^^^ a := by
  rw [show 0x0b#8 = 0x08#8 ^^^ 0x02#8 ^^^ 0x01#8 from rfl, gmul_xor_left, gmul_xor_left, gmul_eight, gmul_two, gmul_one_left]

theorem gmul_thirteen (a : Byte) : gmul p 0x0d#8 a = xtimePow p 3 a ^^^ xtimePow p 2 a ^^^ a := by
  rw [show 0x0d#8 = 0x08#8 ^^^ 0x04#8 ^^^ 0x01#8 from rfl, gmul_xor_left, gmul_xor_left, gmul_eight, gmul_four, gmul_one_left]

theorem gmul_fourteen (a : Byte) : gmul p 0x0e#8 a = xtimePow p 3 a ^^^ xtimePow p 2 a ^^^ xtime p a := by
  rw [show 0x0e#8 = 0x08#8 ^^^ 0x04#8 ^^^ 0x02#8 from rfl, gmul_xor_left, gmul_xor_left, gmul_eight, gmul_four, gmul_two]

end

/-! ### The default polynomial 0x11B -/

theorem xtime_default_toNat (a : Byte) :
    (xtime 0x11B#9 a).toNat = if a.toNat < 128 then 2 * a.toNat else (2 * a.toNat) ^^^ 0x11B := by
  revert a
  decide +kernel

end Sys2Proof.Machine

/-! SUPPORT. The S-box table (40_round_primitives R92, R93) and, through it, the inverses in the field of 0x11B. -/

namespace Sys2Proof.Machine

/-- The affine map of 40_round_primitives R92 on bytes. -/
def affine (t : Byte) : Byte := t ^^^ t.rotateLeft 1 ^^^ t.rotateLeft 2 ^^^ t.rotateLeft 3 ^^^ t.rotateLeft 4 ^^^ 0x63#8

/-- The map that undoes `affine`. -/
def affineInv (s : Byte) : Byte := s.rotateLeft 1 ^^^ s.rotateLeft 3 ^^^ s.rotateLeft 6 ^^^ 0x05#8

theorem affine_affineInv (s : Byte) : affine (affineInv s) = s := by
  revert s
  decide +kernel

/-- The field inverse as the S-box table holds it: the affine map taken off the entry. -/
def byteInv (a : Byte) : Byte := affineInv (aes512.sbox a)

theorem byteInv_zero : byteInv 0x00#8 = 0x00#8 := by decide

/-- The 255 nonzero entries of the table, checked one by one. -/
theorem gmul_byteInv : ∀ a : Byte, a ≠ 0x00#8 → gmul 0x11B#9 a (byteInv a) = 0x01#8 := by
  decide +kernel

theorem sbox_eq_affine_byteInv (a : Byte) : aes512.sbox a = affine (byteInv a) := (affine_affineInv _).symm

theorem aes512_invSbox_sbox : ∀ a : Byte, aes512.invSbox (aes512.sbox a) = a := by
  decide +kernel

theorem aes512_sbox_invSbox : ∀ a : Byte, aes512.sbox (aes512.invSbox a) = a := by
  decide +kernel

/-- Settles O7: multiplication by a fixed right factor is additive and commutes with `xtime`, whence the ring laws; the constant
multiples follow by adding powers of two; for 0x11B the S-box table holds the inverses. -/
theorem gmulIsFieldMultiplication : Obligations.GmulIsFieldMultiplication := by
  refine ⟨fun p a b c => ?_, xtime_default_toNat, fun a ha => ⟨byteInv a, gmul_byteInv a ha⟩,
    by decide, by decide, by decide, by decide, by decide, by decide, by decide, by decide, by decide⟩
  exact ⟨gmul_comm p a b, gmul_assoc p a b c, gmul_xor_right p a b c, gmul_xor_left p a b c, gmul_one_right p a,
    gmul_zero_right p a, gmul_eq_sum p a b, gmul_two p a, gmul_three p a, gmul_nine p a, gmul_eleven p a, gmul_thirteen p a,
    gmul_fourteen p a⟩

/-- Settles O8: the entry of `a` is `affine (byteInv a)`, and `byteInv a` is the inverse of `a`. -/
theorem sboxIsAffineInverse : Obligations.SboxIsAffineInverse := by
  intro a
  refine ⟨⟨byteInv a, ?_, sbox_eq_affine_byteInv a⟩, aes512_invSbox_sbox a, aes512_sbox_invSbox a⟩
  split
  case isTrue ha => exact ha ▸ byteInv_zero
  case isFalse ha => exact gmul_byteInv a ha

end Sys2Proof.Machine

/-! SUPPORT. The round primitives (40_round_primitives R94 to R100), for lawful parameters and byte by byte at the defaults. -/

namespace Sys2Proof.Machine

/-! ### Cells, and each primitive undone -/

section
variable {cfg : Config}

theorem cell_ofCells (hcfg : cfg.Lawful) (f : Fin 4 → Fin 4 → Byte) (r c : Fin 4) : cell cfg (ofCells cfg f) r c = f r c := by
  simp [cell, ofCells, hcfg.rowCol_byteAt]

theorem ofCells_cell (hcfg : cfg.Lawful) (b : Block) : ofCells cfg (cell cfg b) = b := by
  ext i hi
  simp [ofCells, cell, hcfg.byteAt_rowCol]

/-- Two blocks with the same cells are equal. -/
theorem ext_cell (hcfg : cfg.Lawful) {b d : Block} (h : ∀ r c, cell cfg b r c = cell cfg d r c) : b = d := by
  rw [← ofCells_cell hcfg b, ← ofCells_cell hcfg d, funext₂ h]

theorem invSubBytes_subBytes (hcfg : cfg.Lawful) (b : Block) : invSubBytes cfg (subBytes cfg b) = b := by
  ext i hi
  simp [invSubBytes, subBytes, hcfg.invSbox_sbox]

theorem subBytes_invSubBytes (hcfg : cfg.Lawful) (b : Block) : subBytes cfg (invSubBytes cfg b) = b := by
  ext i hi
  simp [invSubBytes, subBytes, hcfg.sbox_invSbox]

theorem invShiftRows_shiftRows (hcfg : cfg.Lawful) (b : Block) : invShiftRows cfg (shiftRows cfg b) = b :=
  ext_cell hcfg fun r c => by
    simp only [invShiftRows, shiftRows, cell_ofCells hcfg, sub_add_cancel]

theorem cell_mulColumns (hcfg : cfg.Lawful) (m : Fin 4 → Fin 4 → Byte) (b : Block) (r c : Fin 4) :
    cell cfg (mulColumns cfg m b) r c =
      gmul cfg.poly (m r 0) (cell cfg b 0 c) ^^^ gmul cfg.poly (m r 1) (cell cfg b 1 c) ^^^
      gmul cfg.poly (m r 2) (cell cfg b 2 c) ^^^ gmul cfg.poly (m r 3) (cell cfg b 3 c) :=
  cell_ofCells hcfg _ r c

/-- Multiplying by one matrix and then by another multiplies by their product: where the product is the unit matrix, the second
undoes the first. -/
theorem mulColumns_mulColumns (hcfg : cfg.Lawful) {m n : Fin 4 → Fin 4 → Byte}
    (hmn : ∀ r k : Fin 4, gmul cfg.poly (m r 0) (n 0 k) ^^^ gmul cfg.poly (m r 1) (n 1 k) ^^^
      gmul cfg.poly (m r 2) (n 2 k) ^^^ gmul cfg.poly (m r 3) (n 3 k) = if r = k then 1#8 else 0#8)
    (b : Block) : mulColumns cfg m (mulColumns cfg n b) = b := by
  refine ext_cell hcfg fun r c => ?_
  have hprod : cell cfg (mulColumns cfg m (mulColumns cfg n b)) r c =
      gmul cfg.poly (if r = 0 then 1#8 else 0#8) (cell cfg b 0 c) ^^^ gmul cfg.poly (if r = 1 then 1#8 else 0#8) (cell cfg b 1 c) ^^^
      gmul cfg.poly (if r = 2 then 1#8 else 0#8) (cell cfg b 2 c) ^^^ gmul cfg.poly (if r = 3 then 1#8 else 0#8) (cell cfg b 3 c) := by
    simp only [cell_mulColumns hcfg, gmul_xor_right, ← gmul_assoc, ← hmn, gmul_xor_left]
    ac_rfl
  rw [hprod]
  fin_cases r <;> simp

theorem invMixColumns_mixColumns (hcfg : cfg.Lawful) (b : Block) : invMixColumns cfg (mixColumns cfg b) = b :=
  mulColumns_mulColumns hcfg hcfg.invMix_mix b

end

/-- The default parameters are lawful (00_scope R9). -/
theorem aes512_lawful : aes512.Lawful where
  invSbox_sbox := aes512_invSbox_sbox
  sbox_invSbox := aes512_sbox_invSbox
  poly_degree := rfl
  invMix_mix := by decide
  mix_invMix := by decide
  byteAt_rowCol := by decide
  rowCol_byteAt := by decide
  nblk_pos := by decide
  nblk_le := by decide

/-- Adding a round key twice restores the block (40_round_primitives R100). -/
theorem addRoundKey_addRoundKey (b k : Block) : addRoundKey (addRoundKey b k) k = b := by
  ext i hi
  simp [addRoundKey]

/-! ### Byte by byte -/

@[simp] theorem getElem_subBytes (cfg : Config) (b : Block) (i : Fin 16) : (subBytes cfg b)[i] = cfg.sbox b[i] := by
  simp [subBytes]

@[simp] theorem getElem_addRoundKey (b k : Block) (i : Fin 16) : (addRoundKey b k)[i] = b[i] ^^^ k[i] := by
  simp [addRoundKey]

/-- The default layout: the cell in row r, column c is byte 4 c + r. -/
theorem cell_aes512 (b : Block) (r c : Fin 4) : cell aes512 b r c = b[4 * c.val + r.val] := by
  simp [cell, aes512, Nat.add_comm]

theorem getElem_shiftRows_aes512 (b : Block) (r c : Fin 4) :
    (shiftRows aes512 b)[r.val + 4 * c.val] = b[r.val + 4 * ((c.val + r.val) % 4)] :=
  cell_ofCells aes512_lawful _ r c

/-- `MIXMAT` row by row (40_round_primitives R98). -/
theorem mixmat_aes512 (r k : Fin 4) : aes512.mixmat r k =
    #v[#v[0x02#8, 0x03#8, 0x01#8, 0x01#8], #v[0x01#8, 0x02#8, 0x03#8, 0x01#8],
      #v[0x01#8, 0x01#8, 0x02#8, 0x03#8], #v[0x03#8, 0x01#8, 0x01#8, 0x02#8]][r][k] := by
  revert r k
  decide

theorem getElem_mixColumns_aes512 (b : Block) (r c : Fin 4) :
    (mixColumns aes512 b)[4 * c.val + r.val] =
      gmul 0x11B#9 (aes512.mixmat r 0) b[4 * c.val] ^^^ gmul 0x11B#9 (aes512.mixmat r 1) b[4 * c.val + 1] ^^^
      gmul 0x11B#9 (aes512.mixmat r 2) b[4 * c.val + 2] ^^^ gmul 0x11B#9 (aes512.mixmat r 3) b[4 * c.val + 3] := by
  have h := cell_mulColumns aes512_lawful aes512.mixmat b r c
  simp only [cell_aes512] at h
  exact h

/-- Settles O9: `SubBytes` and `AddRoundKey` are byte-wise by definition; the bytes of the other two are cells of the default
layout. -/
theorem forwardPrimitivesByByte : Obligations.ForwardPrimitivesByByte := by
  refine ⟨fun b k i => ⟨getElem_subBytes _ b i, getElem_addRoundKey b k i⟩, addRoundKey_addRoundKey, fun b => ?_,
    getElem_shiftRows_aes512, fun b c => ?_, by decide, by decide, by decide, by decide⟩
  · ext i hi
    interval_cases i <;> simp [shiftRows, ofCells, cell, aes512]
  · have hrow := fun r => getElem_mixColumns_aes512 b r c
    refine ⟨(hrow 0).trans ?_, (hrow 1).trans ?_, (hrow 2).trans ?_, (hrow 3).trans ?_⟩ <;> simp [mixmat_aes512]

end Sys2Proof.Machine

/-! SUPPORT. The step commands (40_round_primitives R102 to R109). -/

namespace Sys2Proof.Machine

/-! ### The template of R102 -/

theorem blkReady_iff (s : State) : blkReady s = true ↔ s.blkfill = 0xF#4 := by
  simp [blkReady]

/-- A command that tests first that `BLK` is fully supplied raises `E_BLKLEN` when it is not (40_round_primitives R102). -/
theorem command_blkLen {pre : List (Bool × ErrCode)} {effect : State → State} {s : State} (h : s.err = false)
    (hb : s.blkfill ≠ 0xF#4) : command ((blkReady s, .blkLen) :: pre) effect s = raises s 3#4 := by
  refine command_violated (e := .blkLen) h ?_
  have hready : blkReady s = false := Bool.eq_false_iff.2 fun hr => hb ((blkReady_iff s).1 hr)
  rw [firstViolation, hready]
  rfl

theorem stepCommandRule_of_exec {i : Instr} {f : Block → Block}
    (hi : ∀ s, exec i s = command [(blkReady s, .blkLen)] (fun s => { s with blk := f s.blk }) s) : StepCommandRule i f := by
  intro s
  rw [hi]
  exact ⟨command_halted, command_blkLen, fun h hb => command_admitted h (by simpa [blkReady_iff] using hb)⟩

/-- Two step commands whose functions undo one another restore the state. -/
theorem runCommands_stepCommands_undo {i j : Instr} {f g : Block → Block} (hi : StepCommandRule i f) (hj : StepCommandRule j g)
    (hfg : ∀ b, g (f b) = b) {s : State} (h : s.err = false) (hb : s.blkfill = 0xF#4) : runCommands [i, j] s = .next s := by
  obtain ⟨-, -, hi⟩ := hi s
  obtain ⟨-, -, hj⟩ := hj { s with blk := f s.blk }
  rw [runCommands_cons (hi h hb), runCommands_cons (hj h hb), hfg, runCommands_nil]

theorem stepCommandRule_sub : StepCommandRule .sub (subBytes aes512) := stepCommandRule_of_exec exec_sub
theorem stepCommandRule_shr : StepCommandRule .shr (shiftRows aes512) := stepCommandRule_of_exec exec_shr
theorem stepCommandRule_mix : StepCommandRule .mix (mixColumns aes512) := stepCommandRule_of_exec exec_mix
theorem stepCommandRule_isub : StepCommandRule .isub (invSubBytes aes512) := stepCommandRule_of_exec exec_isub
theorem stepCommandRule_ishr : StepCommandRule .ishr (invShiftRows aes512) := stepCommandRule_of_exec exec_ishr
theorem stepCommandRule_imix : StepCommandRule .imix (invMixColumns aes512) := stepCommandRule_of_exec exec_imix

/-- Settles O21: each command follows the template; the pairs restore the block because the defaults are lawful. -/
theorem stepCommandsTransformBlk : Obligations.StepCommandsTransformBlk := by
  obtain ⟨-, -, -, -, -, hsubExample, hmixExample, -, -⟩ := forwardPrimitivesByByte
  refine ⟨stepCommandRule_sub, stepCommandRule_shr, stepCommandRule_mix, stepCommandRule_isub, stepCommandRule_ishr,
    stepCommandRule_imix, hsubExample, by decide, hmixExample, by decide, by decide, by decide, fun s h hb => ?_⟩
  have hsub := invSubBytes_subBytes aes512_lawful
  have hisub := subBytes_invSubBytes aes512_lawful
  have hshr := invShiftRows_shiftRows aes512_lawful
  have hmix := invMixColumns_mixColumns aes512_lawful
  exact ⟨runCommands_stepCommands_undo stepCommandRule_sub stepCommandRule_isub hsub h hb,
    runCommands_stepCommands_undo stepCommandRule_isub stepCommandRule_sub hisub h hb,
    runCommands_stepCommands_undo stepCommandRule_shr stepCommandRule_ishr hshr h hb,
    runCommands_stepCommands_undo stepCommandRule_mix stepCommandRule_imix hmix h hb⟩

/-! ### `ARK r` -/

theorem exec_ark_noKey (r : Fin 16) {s : State} (h : s.err = false) (hb : s.blkfill = 0xF#4) (hk : s.kv = false) :
    exec (.ark r) s = raises s 4#4 := by
  rw [exec_ark]
  refine command_violated (e := .noKey) h ?_
  rw [firstViolation, (blkReady_iff s).2 hb, hk]
  rfl

theorem exec_ark_admitted (r : Fin 16) {s : State} (h : s.err = false) (hb : s.blkfill = 0xF#4) (hk : s.kv = true) :
    exec (.ark r) s = .next { s with blk := addRoundKey s.blk s.rk[r] } := by
  rw [exec_ark]
  exact command_admitted h (by simp [blkReady_iff, hb, hk])

/-- The second of two `ARK r` sees the block the first left and the same round keys. -/
theorem runCommands_ark_ark (r : Fin 16) {s : State} (h : s.err = false) (hb : s.blkfill = 0xF#4) (hk : s.kv = true) :
    runCommands [.ark r, .ark r] s = .next s := by
  have hark : ∀ b : Block, exec (.ark r) { s with blk := b } = .next { s with blk := addRoundKey b s.rk[r] } :=
    fun b => exec_ark_admitted r (s := { s with blk := b }) h hb hk
  rw [runCommands_cons (hark s.blk), runCommands_cons (hark _), addRoundKey_addRoundKey, runCommands_nil]

/-- A round key but the last is mixed from its chunk (41_key_schedule R124). -/
theorem getElem_expand_mixed (cfg : Config) (k : MasterKey) (i : Fin 15) :
    (expand cfg k)[i.val] = cfg.keymix (cfg.chunk k i.castSucc) (cfg.rcon i) := by
  simp [expand, Fin.castSucc, Fin.castAdd, Fin.castLE]

theorem addRoundKey_zeroBlock (k : Block) : addRoundKey zeroBlock k = k := by
  ext i hi
  simp [addRoundKey]

theorem cyclicChunk_replicate (v : Byte) (i : Fin 16) : cyclicChunk (Vector.replicate 64 v) i = Vector.replicate 16 v := by
  ext m hm
  simp [cyclicChunk]

/-- The example of 40_round_primitives R106: round key 0 of the all-zero master key. -/
theorem expand_zero_first :
    (expand aes512 (Vector.replicate 64 0x00#8))[0] = #v[0x63#8, 0x63#8, 0x63#8, 0x63#8, 0x62#8, 0x63#8,
      0x63#8, 0x63#8, 0x63#8, 0x63#8, 0x63#8, 0x63#8, 0x62#8, 0x63#8, 0x63#8, 0x63#8] :=
  calc (expand aes512 (Vector.replicate 64 0x00#8))[0]
    _ = aes512.keymix (cyclicChunk (Vector.replicate 64 0x00#8) 0) 0x01#8 := getElem_expand_mixed aes512 _ 0
    _ = aes512.keymix (Vector.replicate 16 0x00#8) 0x01#8 := by rw [cyclicChunk_replicate]
    _ = _ := by decide

/-- Settles O22: the preconditions in their order, then the XOR with round key r, which a second `ARK r` takes off again. -/
theorem arkXorsRoundKey : Obligations.ArkXorsRoundKey := by
  refine ⟨fun r s => ⟨exec_halted _, fun h hb => ?_, exec_ark_noKey r, fun h hb hk => ⟨?_, ?_⟩⟩,
    (addRoundKey_zeroBlock _).trans expand_zero_first⟩
  · rw [exec_ark]
    exact command_blkLen h hb
  · exact ⟨_, exec_ark_admitted r h hb hk, getElem_addRoundKey s.blk s.rk[r]⟩
  · exact runCommands_ark_ark r h hb hk

end Sys2Proof.Machine

/-! SUPPORT. The key schedule at the default parameters (41_key_schedule R120 to R122). -/

namespace Sys2Proof.Machine

/-! ### The round constants -/

/-- Each power of x is `xtime` of the one before. -/
theorem rconPower_succ (p : BitVec 9) (i : Nat) : rconPower p (i + 1) = xtime p (rconPower p i) := rfl

/-- Settles O13: the fifteen values are computed; the recurrence is that of the powers of x. -/
theorem roundConstantsArePowers : Obligations.RoundConstantsArePowers :=
  ⟨by decide, fun i => rconPower_succ aes512.poly i.val⟩

/-! ### The mixing of a chunk -/

/-- Words 0 and 2 of a chunk do not enter the result (41_key_schedule R122). -/
theorem keyMixAssist_congr {sbox : Byte → Byte} {b d : Block} (rc : Byte)
    (h : ∀ i : Fin 16, i.val / 4 = 1 ∨ i.val / 4 = 3 → b[i] = d[i]) : keyMixAssist sbox b rc = keyMixAssist sbox d rc := by
  have hword1 : b[4] = d[4] ∧ b[5] = d[5] ∧ b[6] = d[6] ∧ b[7] = d[7] :=
    ⟨h 4 (.inl rfl), h 5 (.inl rfl), h 6 (.inl rfl), h 7 (.inl rfl)⟩
  have hword3 : b[12] = d[12] ∧ b[13] = d[13] ∧ b[14] = d[14] ∧ b[15] = d[15] :=
    ⟨h 12 (.inr rfl), h 13 (.inr rfl), h 14 (.inr rfl), h 15 (.inr rfl)⟩
  simp only [keyMixAssist, hword1, hword3]

/-- Settles O14: the dataflow is the definition; two chunks that differ in byte 0 only have the same image. -/
theorem keyMixDataflow : Obligations.KeyMixDataflow := by
  refine ⟨fun b rc => rfl, fun b d rc h => keyMixAssist_congr rc h, fun hinj => ?_⟩
  have hagree : ∀ i : Fin 16, i.val / 4 = 1 ∨ i.val / 4 = 3 → zeroBlock[i] = (zeroBlock.set 0 0x01#8)[i] := by decide
  have heq : zeroBlock = zeroBlock.set 0 0x01#8 := hinj _ _ 0x00#8 (keyMixAssist_congr 0x00#8 hagree)
  exact absurd heq (by decide)

/-! ### The chunks -/

@[simp] theorem getElem_cyclicChunk (k : MasterKey) (i : Fin 16) (m : Nat) (hm : m < 16) :
    (cyclicChunk k i)[m] = k[(4 * i.val + m) % 64] := by
  simp [cyclicChunk]

/-- Byte m of a chunk is byte m + 4 of the chunk before. -/
theorem getElem_cyclicChunk_succ (k : MasterKey) (i : Fin 15) (m : Fin 12) :
    (cyclicChunk k i.succ)[m.val] = (cyclicChunk k i.castSucc)[m.val + 4] := by
  have hindex : (4 * i.succ.val + m.val) % 64 = (4 * i.castSucc.val + (m.val + 4)) % 64 := by simp; omega
  simp only [getElem_cyclicChunk, hindex]

/-- Chunk i holds key byte n when the word of n is one of the four words from word i on, modulo 16. -/
theorem any_chunk_index (n : Fin 64) (i : Fin 16) :
    ((List.finRange 16).any fun m => (4 * i.val + m.val) % 64 == n.val) = decide ((n.val / 4 + 16 - i.val) % 16 < 4) := by
  rw [Bool.eq_iff_iff, List.any_eq_true, decide_eq_true_iff]
  constructor
  · rintro ⟨m, -, hm⟩
    rw [beq_iff_eq] at hm
    omega
  · intro h
    have hm : (n.val + 64 - 4 * i.val) % 64 < 16 := by omega
    exact ⟨⟨_, hm⟩, List.mem_finRange _, beq_iff_eq.2 (by simp only; omega)⟩

/-- A word lies among the four words from word i on for four values of i. -/
theorem length_chunks_of_word : ∀ q : Fin 16,
    ((List.finRange 16).filter fun i => decide ((q.val + 16 - i.val) % 16 < 4)).length = 4 := by
  decide

/-- Settles O15: the windows are the definition; which chunks hold a key byte depends on the word it lies in. -/
theorem chunksAreCyclicWindows : Obligations.ChunksAreCyclicWindows := by
  refine ⟨fun k i m => getElem_cyclicChunk k i m.val m.isLt, getElem_cyclicChunk_succ, fun n => ?_⟩
  simp only [any_chunk_index]
  exact length_chunks_of_word ⟨n.val / 4, by omega⟩

end Sys2Proof.Machine

/-! SUPPORT. `KEXP` (41_key_schedule R128), and the round-key window in which the host reads what it derives. -/

namespace Sys2Proof.Machine

/-! ### The command -/

theorem keyReady_iff (s : State) : keyReady s = true ↔ s.keyfill = 0xFFFF#16 := by
  simp [keyReady]

theorem exec_kexp_keyLen {s : State} (h : s.err = false) (hk : s.keyfill ≠ 0xFFFF#16) : exec .kexp s = raises s 2#4 := by
  rw [exec_kexp]
  exact command_violated (e := .keyLen) h (by simp [firstViolation, keyReady_iff, hk])

theorem exec_kexp_admitted {s : State} (h : s.err = false) (hk : s.keyfill = 0xFFFF#16) :
    exec .kexp s = .next { s with rk := expand aes512 s.key, kv := true } := by
  rw [exec_kexp]
  exact command_admitted h (by simpa [keyReady_iff] using hk)

/-! ### Round keys as the host reads them -/

/-- Word n of the round-key window is word n mod 4 of round key n div 4 (10_state R25). -/
theorem hostRead_rkw {cfg : Config} {off : Word} {s : State} {b : Block} (n : Fin 64) (hoff : off.toNat = 0x100 + 4 * n.val)
    (hb : s.rk[n.val / 4] = b) : hostRead cfg off s = wordAt b (n.val % 4) (by omega) := by
  simp only [hostRead, regAt_rkw n hoff, rkWord, hb]

/-- Round key 15 of the all-zero master key is its raw chunk. -/
theorem expand_zero_last : (expand aes512 (Vector.replicate 64 0x00#8))[15] = zeroBlock :=
  Vector.ext fun m hm => by simpa using expand_last (Vector.replicate 64 0x00#8) ⟨m, hm⟩

/-- Settles O23: the three cases of the template; in the example the words read are those of round keys 0 and 15 of the all-zero
key. -/
theorem kexpDerivesRoundKeys : Obligations.KexpDerivesRoundKeys := by
  refine ⟨fun s => ⟨exec_halted _, exec_kexp_keyLen, exec_kexp_admitted⟩, _, exec_kexp_admitted rfl rfl, ?_, ?_, ?_, ?_⟩
  · exact (hostRead_rkw 0 rfl expand_zero_first).trans (by decide)
  · exact (hostRead_rkw 1 rfl expand_zero_first).trans (by decide)
  · exact (hostRead_rkw 60 rfl expand_zero_last).trans (by decide)
  · rw [hostRead_status (regAt_status rfl)]
    rfl

end Sys2Proof.Machine

/-! SUPPORT. The block transform (42_block_transform R136 to R138): the rounds of `Encrypt` in order, and, for lawful parameters, the
rounds of `Decrypt` that undo them. -/

namespace Sys2Proof.Machine

/-! ### The rounds of `Encrypt` -/

/-- The full rounds are numbered from 1. -/
theorem getElem_fullRounds : ∀ n : Fin 14, fullRounds[n] = n.succ.castSucc := by decide

/-- When `st r` is the state after round r, the first n full rounds lead from the whitened block to `st n`. -/
theorem foldl_take_fullRounds {cfg : Config} {K : RoundKeys} {st : Nat → Block}
    (hround : ∀ r : Fin 16, 1 ≤ r.val → r.val ≤ 14 → st r.val = fullRound cfg (st (r.val - 1)) K[r]) {n : Nat} (hn : n ≤ 14) :
    (fullRounds.take n).foldl (fun s r => fullRound cfg s K[r]) (st 0) = st n := by
  induction n with
  | zero => rfl
  | succ n ih =>
    have hlast : fullRounds[n]'hn = ⟨n + 1, by omega⟩ := getElem_fullRounds ⟨n, hn⟩
    rw [List.take_succ_eq_append_getElem hn, List.foldl_append, ih (by omega), hlast]
    exact (hround ⟨n + 1, by omega⟩ (Nat.le_add_left 1 n) hn).symm

/-- Settles O17: the fourteen full rounds, taken one at a time, lead to `st 14`; the final round follows. -/
theorem encryptRunsTheRounds : Obligations.EncryptRunsTheRounds := by
  intro cfg b K st hwhite hround
  have htake : fullRounds.take 14 = fullRounds := rfl
  rw [encrypt, ← hwhite, ← htake, foldl_take_fullRounds hround le_rfl, finalRound]

/-! ### Each round undone -/

section
variable {cfg : Config}

theorem shiftRows_invShiftRows (hcfg : cfg.Lawful) (b : Block) : shiftRows cfg (invShiftRows cfg b) = b :=
  ext_cell hcfg fun r c => by
    simp only [invShiftRows, shiftRows, cell_ofCells hcfg, add_sub_cancel_right]

theorem mixColumns_invMixColumns (hcfg : cfg.Lawful) (b : Block) : mixColumns cfg (invMixColumns cfg b) = b :=
  mulColumns_mulColumns hcfg hcfg.mix_invMix b

theorem invFullRound_fullRound (hcfg : cfg.Lawful) (s k : Block) : invFullRound cfg (fullRound cfg s k) k = s := by
  rw [invFullRound, fullRound, addRoundKey_addRoundKey, invMixColumns_mixColumns hcfg, invShiftRows_shiftRows hcfg,
    invSubBytes_subBytes hcfg]

theorem fullRound_invFullRound (hcfg : cfg.Lawful) (s k : Block) : fullRound cfg (invFullRound cfg s k) k = s := by
  rw [invFullRound, fullRound, subBytes_invSubBytes hcfg, shiftRows_invShiftRows hcfg, mixColumns_invMixColumns hcfg,
    addRoundKey_addRoundKey]

theorem invFinalRound_finalRound (hcfg : cfg.Lawful) (s k : Block) : invFinalRound cfg (finalRound cfg s k) k = s := by
  rw [invFinalRound, finalRound, addRoundKey_addRoundKey, invShiftRows_shiftRows hcfg, invSubBytes_subBytes hcfg]

theorem finalRound_invFinalRound (hcfg : cfg.Lawful) (s k : Block) : finalRound cfg (invFinalRound cfg s k) k = s := by
  rw [invFinalRound, finalRound, subBytes_invSubBytes hcfg, shiftRows_invShiftRows hcfg, addRoundKey_addRoundKey]

/-! ### `Decrypt` and `Encrypt` undo one another -/

/-- The steps of `Decrypt` regrouped into inverse rounds: a pass undoes the substitution and the row shift of the round after it, so
undoing them first turns each pass into an inverse full round (42_block_transform R137). -/
theorem decrypt_eq_invRounds (cfg : Config) (b : Block) (K : RoundKeys) :
    decrypt cfg b K =
      addRoundKey (fullRounds.reverse.foldl (fun s r => invFullRound cfg s K[r]) (invFinalRound cfg b K[15])) K[0] := by
  have hpass := List.foldl_hom (fun s => invSubBytes cfg (invShiftRows cfg s)) (g₁ := fun s (r : Fin 16) => decryptPass cfg s K[r])
    (g₂ := fun s r => invFullRound cfg s K[r]) (l := fullRounds.reverse) (init := addRoundKey b K[15]) fun s r => rfl
  rw [decrypt, ← hpass, invFinalRound]

/-- Steps that each undo one of another sequence, taken in the reverse order, undo the sequence. -/
theorem foldl_reverse_foldl {α β : Type} {f g : β → α → β} (hfg : ∀ s a, g (f s a) a = s) (l : List α) (s : β) :
    l.reverse.foldl g (l.foldl f s) = s := by
  induction l generalizing s with
  | nil => rfl
  | cons a l ih => rw [List.foldl_cons, List.reverse_cons, List.foldl_append, ih, List.foldl_cons, List.foldl_nil, hfg]

/-- `Decrypt(Encrypt(b, K), K) = b` (42_block_transform R138). -/
theorem decrypt_encrypt (hcfg : cfg.Lawful) (b : Block) (K : RoundKeys) : decrypt cfg (encrypt cfg b K) K = b := by
  have hrounds := foldl_reverse_foldl (f := fun s r => fullRound cfg s K[r]) (g := fun s r => invFullRound cfg s K[r])
    (fun s r => invFullRound_fullRound hcfg s K[r]) fullRounds
  rw [decrypt_eq_invRounds, encrypt, invFinalRound_finalRound hcfg, hrounds, addRoundKey_addRoundKey]

/-- `Encrypt(Decrypt(b, K), K) = b` (42_block_transform R138). -/
theorem encrypt_decrypt (hcfg : cfg.Lawful) (b : Block) (K : RoundKeys) : encrypt cfg (decrypt cfg b K) K = b := by
  have hrounds := foldl_reverse_foldl (f := fun s r => invFullRound cfg s K[r]) (g := fun s r => fullRound cfg s K[r])
    (fun s r => fullRound_invFullRound hcfg s K[r]) fullRounds.reverse
  rw [List.reverse_reverse] at hrounds
  rw [decrypt_eq_invRounds, encrypt, addRoundKey_addRoundKey, hrounds, finalRound_invFinalRound hcfg]

end

end Sys2Proof.Machine

/-! SUPPORT. `ENC` and `DEC` (42_block_transform R141, R142). -/

namespace Sys2Proof.Machine

/-! ### The template of `ENC` and `DEC` -/

/-- The template of 42_block_transform R141 for a command that applies `f` to the block and the round keys. -/
structure BlockCommandRule (i : Instr) (f : Block → RoundKeys → Block) (s : State) : Prop where
  halted : s.err = true → exec i s = .next s
  blkLen : s.err = false → s.blkfill ≠ 0xF#4 → exec i s = raises s 3#4
  noKey : s.err = false → s.blkfill = 0xF#4 → s.kv = false → exec i s = raises s 4#4
  admitted : s.err = false → s.blkfill = 0xF#4 → s.kv = true → exec i s = .next { s with blk := f s.blk s.rk }

theorem blockCommandRule_of_exec {i : Instr} {f : Block → RoundKeys → Block} (hi : ∀ s, exec i s = blockCommand f s) (s : State) :
    BlockCommandRule i f s where
  halted := exec_halted i
  blkLen h hb := (hi s).trans (command_blkLen h hb)
  noKey h hb hk := (hi s).trans (command_violated (e := .noKey) h (by simp [firstViolation, (blkReady_iff s).2 hb, hk]))
  admitted h hb hk := (hi s).trans (command_admitted h (by simp [blkReady_iff, hb, hk]))

theorem blockCommandRule_enc (s : State) : BlockCommandRule .enc (encrypt aes512) s := blockCommandRule_of_exec exec_enc s

theorem blockCommandRule_dec (s : State) : BlockCommandRule .dec (decrypt aes512) s := blockCommandRule_of_exec exec_dec s

/-- Two such commands, one after the other: the second sees the block the first left and the same round keys. -/
theorem runCommands_blockCommands {i j : Instr} {f g : Block → RoundKeys → Block} (hi : ∀ s, BlockCommandRule i f s)
    (hj : ∀ s, BlockCommandRule j g s) {s : State} (h : s.err = false) (hb : s.blkfill = 0xF#4) (hk : s.kv = true) :
    runCommands [i, j] s = .next { s with blk := g (f s.blk s.rk) s.rk } := by
  rw [runCommands_cons ((hi s).admitted h hb hk), runCommands_cons ((hj { s with blk := f s.blk s.rk }).admitted h hb hk),
    runCommands_nil]

/-! ### The examples, with the all-zero key -/

/-- The round keys of the all-zero master key (42_block_transform R140). -/
def zeroRoundKeys : RoundKeys := expand aes512 (Vector.replicate 64 0x00#8)

theorem encrypt_zero : encrypt aes512 zeroBlock zeroRoundKeys = #v[0xe6#8, 0xff#8, 0x07#8, 0x9d#8, 0x3a#8, 0x68#8, 0x22#8, 0x75#8,
    0xe6#8, 0xff#8, 0x07#8, 0x9d#8, 0x3a#8, 0x68#8, 0x22#8, 0x75#8] := by decide +kernel

theorem decrypt_zero : decrypt aes512 zeroBlock zeroRoundKeys = #v[0x12#8, 0xca#8, 0xc7#8, 0x19#8, 0xd5#8, 0x0b#8, 0x8c#8, 0x27#8,
    0x12#8, 0xca#8, 0xc7#8, 0x19#8, 0xd5#8, 0x0b#8, 0x8c#8, 0x27#8] := by decide +kernel

/-- Were the zero block its own double encryption, its encryption would be its decryption. -/
theorem encrypt_encrypt_zero_ne : encrypt aes512 (encrypt aes512 zeroBlock zeroRoundKeys) zeroRoundKeys ≠ zeroBlock := by
  intro h
  have heq : encrypt aes512 zeroBlock zeroRoundKeys = decrypt aes512 zeroBlock zeroRoundKeys := by
    rw [← decrypt_encrypt aes512_lawful (encrypt aes512 zeroBlock zeroRoundKeys) zeroRoundKeys, h]
  rw [encrypt_zero, decrypt_zero] at heq
  exact absurd heq (by decide)

/-- The zero block ready to be transformed under the all-zero key. -/
def zeroReady : State := { State.reset with blkfill := 0xF#4, kv := true, rk := zeroRoundKeys }

/-- Settles O25: the template; the key registers enter neither a precondition nor the effect; the zero block under the all-zero key
is not its own double encryption. -/
theorem encEncryptsBlk : Obligations.EncEncryptsBlk := by
  refine ⟨fun s => ?_, encrypt_zero, zeroReady, rfl, rfl, rfl, fun htwice => ?_⟩
  · obtain ⟨hhalted, hblkLen, hnoKey, hadmitted⟩ := blockCommandRule_enc s
    refine ⟨hhalted, hblkLen, hnoKey, fun h hb hk => ⟨hadmitted h hb hk, fun k f => ?_⟩⟩
    exact (blockCommandRule_enc { s with key := k, keyfill := f }).admitted h hb hk
  · rw [runCommands_blockCommands blockCommandRule_enc blockCommandRule_enc rfl rfl rfl, Host.Outcome.next.injEq] at htwice
    exact encrypt_encrypt_zero_ne (congrArg (fun s => s.blk) htwice)

/-- Settles O26: the template; each order of the two commands restores the block because the defaults are lawful. -/
theorem decUndoesEnc : Obligations.DecUndoesEnc := by
  refine ⟨fun s => ?_, ?_, decrypt_zero⟩
  · obtain ⟨hhalted, hblkLen, hnoKey, hadmitted⟩ := blockCommandRule_dec s
    refine ⟨hhalted, hblkLen, hnoKey, fun h hb hk => ⟨hadmitted h hb hk, ?_, ?_⟩⟩
    · rw [runCommands_blockCommands blockCommandRule_enc blockCommandRule_dec h hb hk, decrypt_encrypt aes512_lawful]
    · rw [runCommands_blockCommands blockCommandRule_dec blockCommandRule_enc h hb hk, encrypt_decrypt aes512_lawful]
  · rw [← encrypt_zero]
    exact decrypt_encrypt aes512_lawful zeroBlock zeroRoundKeys

end Sys2Proof.Machine

/-! SUPPORT. The ECB commands: their preconditions in order (43_ecb R156), and that they do not use `BLK` (43_ecb R158). -/

namespace Sys2Proof.Machine

/-- Both ECB commands follow one template, each with its own block function. -/
theorem exec_eq_ecbCommand {i : Instr} (hi : i = .ecbenc ∨ i = .ecbdec) :
    ∃ f : Block → RoundKeys → Block, ∀ s : State, exec i s = ecbCommand aes512 f s := by
  obtain rfl | rfl := hi
  · exact ⟨encrypt aes512, exec_ecbenc⟩
  · exact ⟨decrypt aes512, exec_ecbdec⟩

/-! ### The preconditions, as the operands decide them -/

section
variable {cfg : Config} {f : Block → RoundKeys → Block} {s : State}

theorem ecbOutOfRange_eq_false (h : 0 < s.count.toNat →
    s.src.toNat + s.count.toNat ≤ cfg.nblk ∧ s.dst.toNat + s.count.toNat ≤ cfg.nblk) : ecbOutOfRange cfg s = false := by
  rw [← Bool.not_eq_true, ecbOutOfRange_iff]
  omega

/-- The empty sequence shares no block with another. -/
theorem ecbOverlaps_of_count_zero (hn : s.count.toNat = 0) : ecbOverlaps s = false := by
  rw [← Bool.not_eq_true, ecbOverlaps_iff]
  omega

theorem ecbCommand_noKey (h : s.err = false) (hk : s.kv = false) : ecbCommand cfg f s = raises s 4#4 :=
  command_violated (e := .noKey) h (by simp [firstViolation, hk])

theorem ecbCommand_range (h : s.err = false) (hk : s.kv = true) (hr : ecbOutOfRange cfg s = true) :
    ecbCommand cfg f s = raises s 5#4 :=
  command_violated (e := .range) h (by simp [firstViolation, hk, hr])

theorem ecbCommand_overlap (h : s.err = false) (hk : s.kv = true) (hr : ecbOutOfRange cfg s = false)
    (ho : ecbOverlaps s = true) : ecbCommand cfg f s = raises s 6#4 :=
  command_violated (e := .overlap) h (by simp [firstViolation, hk, hr, ho])

/-- Over no block the loop makes no pass. -/
theorem ecbEffect_of_count_zero (hn : s.count.toNat = 0) : ecbEffect f s = s := by
  rw [ecbEffect, blockCount, hn]
  rfl

/-- With `COUNT = 0` the command is admitted wherever the two sequences are said to stand, and changes nothing. -/
theorem ecbCommand_of_count_zero (h : s.err = false) (hk : s.kv = true) (hn : s.count.toNat = 0) :
    ecbCommand cfg f s = .next s := by
  have hr : ecbOutOfRange cfg s = false := ecbOutOfRange_eq_false fun hpos => absurd hn hpos.ne'
  rw [ecbCommand_admitted f h hk hr (ecbOverlaps_of_count_zero hn), ecbEffect_of_count_zero hn]

end

/-- Settles O28: each clause makes the tests before it pass and decides its own, so that test's error is raised; with `COUNT = 0` all
pass and the loop makes no pass. -/
theorem ecbPreconditionsInOrder : Obligations.EcbPreconditionsInOrder := by
  intro i hi s herr
  obtain ⟨f, hexec⟩ := exec_eq_ecbCommand hi
  rw [hexec]
  refine ⟨ecbCommand_noKey herr, fun hk hpos hout => ?_, fun hk hpos hsrc hdst hne hdist => ?_, ecbCommand_of_count_zero herr⟩
  · exact ecbCommand_range herr hk ((ecbOutOfRange_iff aes512 s).2 ⟨hpos, hout⟩)
  · have hr : ecbOutOfRange aes512 s = false := ecbOutOfRange_eq_false fun _ => ⟨hsrc, hdst⟩
    exact ecbCommand_overlap herr hk hr ((ecbOverlaps_iff s).2 ⟨hpos, hne, hdist⟩)

/-! ### `BLK` and `BLKFILL` -/

/-- A command whose preconditions are the same and whose effect commutes with a change `g` of registers outside `ERR` and `ECODE` runs
the same after that change. -/
theorem command_map {pre : List (Bool × ErrCode)} {effect : State → State} {s t : State} (g : State → State)
    (herr : (g s).err = s.err) (hraise : ∀ e, raiseError e (g s) = g (raiseError e s)) (heff : effect (g s) = g (effect s))
    (h : command pre effect s = .next t) : command pre effect (g s) = .next (g t) := by
  obtain ⟨hs, he⟩ | ⟨hs, e, hv, he⟩ | ⟨hs, hv, he⟩ := command_cases pre effect s <;>
    obtain rfl := Host.Outcome.next.inj (he.symm.trans h)
  · exact command_halted (herr.trans hs)
  · rw [command_violated (herr.trans hs) hv, hraise]
  · rw [command_admitted (herr.trans hs) ((firstViolation_eq_none pre).1 hv), heff]

/-- The state with other values in `BLK` and `BLKFILL`. -/
def State.withBlock (b : Block) (mask : BitVec 4) (s : State) : State := { s with blk := b, blkfill := mask }

/-- No precondition of an ECB command reads `BLK` or `BLKFILL`, and its loop reads and writes only `DMEM`. -/
theorem ecbCommand_withBlock {cfg : Config} {f : Block → RoundKeys → Block} {s t : State} (b : Block) (mask : BitVec 4)
    (h : ecbCommand cfg f s = .next t) : ecbCommand cfg f (s.withBlock b mask) = .next (t.withBlock b mask) :=
  command_map (State.withBlock b mask) rfl (fun _ => rfl) rfl h

/-- An ECB command does not write `BLK` or `BLKFILL`: run with the values they already hold, it leaves those values. -/
theorem ecbCommand_keeps_block {cfg : Config} {f : Block → RoundKeys → Block} {s t : State}
    (h : ecbCommand cfg f s = .next t) : t.blk = s.blk ∧ t.blkfill = s.blkfill := by
  have hself := ecbCommand_withBlock s.blk s.blkfill h
  have ht : t = t.withBlock s.blk s.blkfill := Host.Outcome.next.inj (h.symm.trans hself)
  rw [ht]
  exact ⟨rfl, rfl⟩

/-- Settles O32: no precondition of the template reads the block state, and its effect commutes with any other value of it. -/
theorem ecbDoesNotUseBlk : Obligations.EcbDoesNotUseBlk := by
  intro i hi s t h
  obtain ⟨f, hexec⟩ := exec_eq_ecbCommand hi
  simp only [hexec] at h ⊢
  obtain ⟨hblk, hfill⟩ := ecbCommand_keeps_block h
  exact ⟨hblk, hfill, fun b mask => ecbCommand_withBlock b mask h⟩

end Sys2Proof.Machine

/-! SUPPORT. Host access: how a command word is dispatched (44_host_access R169), what a write does and what a read returns at every
offset of the register map (R165, R166), and the halted state (R168). -/

namespace Sys2Proof.Machine

/-! ### Dispatch of a command word -/

section
variable {cfg : Config} {run : Instr → State → Host.Outcome State Fault Refusal} {w : Word} {s : State}

theorem hostWrite_legal {i : Instr} (herr : s.err = false) (hd : decode w = .ok i) : hostWrite cfg run 0#32 w s = run i s := by
  rw [hostWrite_cmd herr, writeCmd, hd]

/-- A word that names no command raises `E_ILLCMD`. -/
theorem hostWrite_not_legal (herr : s.err = false) (hill : ¬∃ i, decode w = .ok i) :
    hostWrite cfg run 0#32 w s = raises s 1#4 := by
  cases hd : decode w with
  | error e => exact hostWrite_illegal herr hd
  | ok i => exact absurd ⟨i, hd⟩ hill

end

/-- A command run when `ERR` is 0 completes with `ERR` still 0, or raises one error and changes nothing else. -/
theorem exec_completes_or_raises (i : Instr) {s : State} (herr : s.err = false) :
    ∃ t, exec i s = .next t ∧ (t.err = false ∨ ∃ e, t = raiseError e s) := by
  have hr := exec_result i s
  generalize exec i s = o at hr ⊢
  cases hr with
  | halted | block | keys | ecb => exact ⟨_, rfl, .inl herr⟩
  | raised _ e => exact ⟨_, rfl, .inr ⟨e, rfl⟩⟩

/-- Settles O6: `hostWrite` decodes the word, and a command completes or raises an error, whose code is in range. -/
theorem dispatchRunsOneCommand : Obligations.DispatchRunsOneCommand := by
  intro s w rest hp herr
  rw [step_write hp]
  refine ⟨fun hill => hostWrite_not_legal herr hill, fun i hd => ?_⟩
  have hrun : hostWrite aes512 exec 0#32 w { s with pending := rest } = exec i { s with pending := rest } :=
    hostWrite_legal herr hd
  obtain ⟨t, ht, hok | ⟨e, rfl⟩⟩ := exec_completes_or_raises i (s := { s with pending := rest }) herr
  · exact ⟨hrun, t, hrun.trans ht, .inl hok⟩
  · obtain ⟨hlow, hhigh⟩ := errCode_range e
    exact ⟨hrun, _, hrun.trans ht, .inr ⟨errCode e, hlow, hhigh, rfl⟩⟩

/-! ### Writes by offset -/

section
variable {cfg : Config} {run : Instr → State → Host.Outcome State Fault Refusal} {off v : Word} {s : State}

theorem hostWrite_blkw {j : Fin 4} (h : s.err = false) (ho : regAt cfg.nblk off = .blkw j) : hostWrite cfg run off v s =
    .next { s with blk := setWordAt s.blk j.val v, blkfill := setFill s.blkfill j.val } := by
  simp [hostWrite, h, ho]

theorem hostWrite_keyw {i : Fin 16} (h : s.err = false) (ho : regAt cfg.nblk off = .keyw i) : hostWrite cfg run off v s =
    .next { s with key := setWordAt s.key i.val v, keyfill := setFill s.keyfill i.val } := by
  simp [hostWrite, h, ho]

/-- A write where nothing can be written raises `E_ADDR` (60_exceptions R188). -/
theorem hostWrite_addr (h : s.err = false) (ho : regAt cfg.nblk off = .misaligned ∨ regAt cfg.nblk off = .status ∨
    (∃ n, regAt cfg.nblk off = .rkw n) ∨ regAt cfg.nblk off = .unmapped) : hostWrite cfg run off v s = raises s 7#4 := by
  have hn : ¬s.err = true := by simp [h]
  rw [hostWrite, if_neg hn]
  obtain ho | ho | ⟨n, ho⟩ | ho := ho <;> rw [ho] <;> rfl

end

/-- At the read-only and unmapped offsets, aligned or not, nothing can be written (44_host_access R165). -/
theorem regAt_not_writable {nblk : Nat} {off : Word} (h : off.toNat = 0x004 ∨ (0x014 ≤ off.toNat ∧ off.toNat < 0x020) ∨
      (0x030 ≤ off.toNat ∧ off.toNat < 0x040) ∨ (0x080 ≤ off.toNat ∧ off.toNat < 0x1000) ∨ 0x1000 + 16 * nblk ≤ off.toNat) :
    regAt nblk off = .misaligned ∨ regAt nblk off = .status ∨ (∃ n, regAt nblk off = .rkw n) ∨ regAt nblk off = .unmapped := by
  by_cases ha : off.toNat % 4 = 0
  · by_cases hs : off.toNat = 0x004
    · exact .inr (.inl (regAt_status hs))
    · by_cases hr : 0x100 ≤ off.toNat ∧ off.toNat < 0x200
      · have hrow : off.toNat = 0x100 + 4 * ((off.toNat - 0x100) / 4) := by omega
        exact .inr (.inr (.inl ⟨_, regAt_rkw ⟨(off.toNat - 0x100) / 4, by omega⟩ hrow⟩))
      · exact .inr (.inr (.inr (regAt_unmapped ha (by omega))))
  · exact .inl (regAt_misaligned ha)

/-- The bits of a fill mask after word j is written. -/
theorem getElem_setFill_fin {n : Nat} (mask : BitVec n) (j k : Fin n) :
    (setFill mask j.val)[k] = if k = j then true else mask[k] := by
  simp only [Fin.getElem_fin, getElem_setFill mask j.val k.val j.isLt k.isLt, Fin.ext_iff]

/-- Settles O38: what stands at the offset decides the write; a byte vector takes the word by `setWordAt`, its fill mask one bit. -/
theorem hostWriteByOffset : Obligations.HostWriteByOffset := by
  intro s off v rest hp o u
  rw [step_write hp]
  refine ⟨fun herr => hostWrite_halted herr, fun herr => ⟨fun ha => ?_, fun ho => ?_, fun ho => hostWrite_src herr (regAt_src ho),
    fun ho => hostWrite_dst herr (regAt_dst ho), fun ho => hostWrite_count herr (regAt_count ho), fun j ho => ?_, fun i ho => ?_,
    fun n hn ho => ?_, fun ho => hostWrite_addr herr (regAt_not_writable ho)⟩⟩
  · exact hostWrite_addr herr (.inl (regAt_misaligned ha))
  · obtain rfl : off = 0#32 := BitVec.eq_of_toNat_eq ho
    exact ⟨fun i hd => hostWrite_legal herr hd, fun hill => hostWrite_not_legal herr hill⟩
  · exact ⟨_, _, hostWrite_blkw herr (regAt_blkw j ho), fun i => getElem_setWordAt .., getElem_setFill_fin s.blkfill j⟩
  · exact ⟨_, _, hostWrite_keyw herr (regAt_keyw i ho), fun k => getElem_setWordAt .., getElem_setFill_fin s.keyfill i⟩
  · exact ⟨_, hostWrite_dmemw herr (regAt_dmemw hn ho), readByte_writeMemWord s.dmem n v⟩

/-! ### Reads by offset -/

section
variable {cfg : Config} {off : Word} {s : State}

theorem hostRead_blkw {j : Fin 4} (ho : regAt cfg.nblk off = .blkw j) : hostRead cfg off s = blkWord s j := by
  simp only [hostRead, ho]

theorem hostRead_keyw {i : Fin 16} (ho : regAt cfg.nblk off = .keyw i) : hostRead cfg off s = keyWord s i := by
  simp only [hostRead, ho]

/-- The round-key window by round and word. -/
theorem hostRead_rkw_round (r : Fin 16) (j : Fin 4) (ho : off.toNat = 0x100 + 16 * r.val + 4 * j.val) :
    hostRead cfg off s = wordAt s.rk[r] j.val (by omega) := by
  have hround : (4 * r.val + j.val) / 4 = r.val := by omega
  have hword : (4 * r.val + j.val) % 4 = j.val := by omega
  have hoff : off.toNat = 0x100 + 4 * (4 * r.val + j.val) := by omega
  have h := hostRead_rkw (cfg := cfg) (s := s) (b := s.rk[r]) ⟨4 * r.val + j.val, by omega⟩ hoff
    (by simp only [hround, Fin.getElem_fin])
  simpa only [hword] using h

/-- `CMD`, a misaligned and an unmapped offset read 0. -/
theorem hostRead_zero (ho : regAt cfg.nblk off = .misaligned ∨ regAt cfg.nblk off = .cmd ∨ regAt cfg.nblk off = .unmapped) :
    hostRead cfg off s = 0x00000000#32 := by
  obtain ho | ho | ho := ho <;> simp only [hostRead, ho]

end

/-- The offsets that read 0 (44_host_access R166). -/
theorem regAt_reads_zero {nblk : Nat} {off : Word} (h : off.toNat % 4 ≠ 0 ∨ off.toNat = 0x000 ∨
      (0x014 ≤ off.toNat ∧ off.toNat < 0x020) ∨ (0x030 ≤ off.toNat ∧ off.toNat < 0x040) ∨
      (0x080 ≤ off.toNat ∧ off.toNat < 0x100) ∨ (0x200 ≤ off.toNat ∧ off.toNat < 0x1000) ∨ 0x1000 + 16 * nblk ≤ off.toNat) :
    regAt nblk off = .misaligned ∨ regAt nblk off = .cmd ∨ regAt nblk off = .unmapped := by
  by_cases ha : off.toNat % 4 = 0
  · obtain hm | hc | hu := h
    · exact absurd ha hm
    · exact .inr (.inl (regAt_cmd hc))
    · exact .inr (.inr (regAt_unmapped ha hu))
  · exact .inl (regAt_misaligned ha)

/-- Settles O39: the word is `hostRead`'s, and each word of a register or of the memory is the sum of its four bytes. -/
theorem hostReadByOffset : Obligations.HostReadByOffset := by
  intro s off rest hp
  refine ⟨_, step_read hp, fun ho => ?_, fun ho => hostRead_src (regAt_src ho), fun ho => hostRead_dst (regAt_dst ho),
    fun ho => hostRead_count (regAt_count ho), fun j ho => ?_, fun i ho => ?_, fun r j ho => ?_, fun n hn ho => ?_,
    fun ho => hostRead_zero (regAt_reads_zero ho)⟩
  · rw [hostRead_status (regAt_status ho), statusWord_toNat]
  · rw [hostRead_blkw (regAt_blkw j ho)]
    exact leWord_toNat ..
  · rw [hostRead_keyw (regAt_keyw i ho)]
    exact leWord_toNat ..
  · rw [hostRead_rkw_round r j ho]
    exact leWord_toNat ..
  · rw [hostRead_dmemw (regAt_dmemw hn ho)]
    exact leWord_toNat ..

/-! ### The halted state -/

/-- `STATUS` stands at 0x004 and nowhere else. -/
theorem eq_of_regAt_status {nblk : Nat} {off : Word} (h : regAt nblk off = .status) : off = 0x004#32 := by
  by_contra hne
  have ho : off.toNat ≠ 0x004 := fun ho => hne (BitVec.eq_of_toNat_eq ho)
  simp only [regAt, ho, if_false] at h
  split_ifs at h

/-- `ERR` enters the word read from no offset but that of `STATUS`. -/
theorem hostRead_withErr (cfg : Config) {off : Word} (s : State) (e : Bool) (hoff : off ≠ 0x004#32) :
    hostRead cfg off { s with err := e } = hostRead cfg off s := by
  unfold hostRead
  cases hr : regAt cfg.nblk off with
  | status => exact absurd (eq_of_regAt_status hr) hoff
  | cmd | src | dst | count | blkw | keyw | rkw | dmemw | misaligned | unmapped => rfl

/-- Settles O42: a write in the halted state is ignored before its offset is looked at; a read answers the same word with `ERR` 0. -/
theorem haltedIgnoresWrites : Obligations.HaltedIgnoresWrites := by
  intro s rest herr
  refine ⟨fun off v hp => (step_write hp).trans (hostWrite_halted herr),
    fun off hp => ⟨hostRead aes512 off s, step_read hp, fun hoff => ?_⟩⟩
  have hread := step_read (s := { s with err := false }) hp
  rwa [hostRead_withErr aes512 s false hoff] at hread

end Sys2Proof.Machine

/-! SUPPORT. Errors: what a step that raises one writes (60_exceptions R191), the halted state (R192), which of several causes is
reported (R181 to R190). -/

namespace Sys2Proof.Machine

/-! ### Error entry -/

/-- A host write when `ERR` is 0 completes with `ERR` still 0, or raises one error and changes nothing else. -/
theorem hostWrite_completes_or_raises (off v : Word) {s : State} (herr : s.err = false) :
    ∃ t, hostWrite aes512 exec off v s = .next t ∧ (t.err = false ∨ ∃ e, t = raiseError e s) := by
  have hr := hostWrite_result aes512 exec off v s
  generalize hostWrite aes512 exec off v s = o at hr ⊢
  cases hr with
  | halted | src | dst | count | blkw | keyw | dmemw => exact ⟨_, rfl, .inl herr⟩
  | raised _ e => exact ⟨_, rfl, .inr ⟨e, rfl⟩⟩
  | ran _ i => exact exec_completes_or_raises i herr

/-- A step that sets `ERR` is error entry on the state with the host step taken off the list: only a write does it. -/
theorem step_raises {s t : State} (h : step s = .next t) (herr : s.err = false) (hraised : t.err = true) :
    ∃ e, t = raiseError e { s with pending := s.pending.tail } := by
  obtain ⟨-, rfl⟩ | ⟨rest, -, rfl⟩ | ⟨off, rest, -, rfl⟩ | ⟨off, v, rest, hp, -⟩ := step_next h
  · exact absurd hraised (by simp [herr])
  · exact absurd hraised (by simp)
  · exact absurd hraised (by simp [herr])
  · obtain ⟨u, hu, hresult⟩ := hostWrite_completes_or_raises off v (s := { s with pending := rest }) herr
    rw [step_write hp, hu] at h
    obtain rfl := Host.Outcome.next.inj h
    obtain hok | ⟨e, rfl⟩ := hresult
    · exact absurd hraised (by simp [hok])
    · exact ⟨e, by rw [hp, List.tail_cons]⟩

/-- Settles O47: the step is error entry, which writes `ERR` and a code that is in range. -/
theorem errorEntryWritesNothingElse : Obligations.ErrorEntryWritesNothingElse := by
  intro s t h herr hraised
  obtain ⟨e, rfl⟩ := step_raises h herr hraised
  obtain ⟨hlow, hhigh⟩ := errCode_range e
  exact ⟨rfl, hlow, hhigh⟩

/-! ### The halted state -/

/-- In the halted state every step but a `RESET` leaves the block's whole state as it was. -/
theorem step_halted_keeps_block {s t : State} (h : step s = .next t) (herr : s.err = true)
    (hreset : s.pending.head? ≠ some .reset) : t.toCoreState = s.toCoreState := by
  obtain ⟨-, rfl⟩ | ⟨rest, hp, -⟩ | ⟨off, rest, -, rfl⟩ | ⟨off, v, rest, hp, -⟩ := step_next h
  · rfl
  · exact absurd (by rw [hp, List.head?_cons]) hreset
  · rfl
  · rw [step_write hp, hostWrite_halted (s := { s with pending := rest }) herr] at h
    cases h
    rfl

theorem step_reset {s : State} {rest : List HostStep} (hp : s.pending = .reset :: rest) :
    step s = .next (resetBlock { s with pending := rest }) := by
  rw [step_issue hp, hostStep]

/-- Settles O48: a write in the halted state is ignored, a read and an idle step never touch the block; `RESET` leaves every register
at its reset value. -/
theorem onlyResetLeavesHalted : Obligations.OnlyResetLeavesHalted := by
  intro s t h herr
  refine ⟨step_halted_keeps_block h herr, fun hreset => ?_⟩
  obtain ⟨rest, hp⟩ := List.head?_eq_some_iff.1 hreset
  obtain rfl := Host.Outcome.next.inj ((step_reset hp).symm.trans h)
  exact ⟨rfl, rfl, rfl, rfl, rfl, rfl, rfl, rfl⟩

/-! ### The preconditions of each command, and the causes they stand for -/

/-- The preconditions of each command in the order it tests them, each with the error it raises (40_round_primitives R102,
41_key_schedule R128, 42_block_transform R141, R142, 43_ecb R156). -/
def commandPreconditions (i : Instr) (s : State) : List (Bool × ErrCode) :=
  match i with
  | .kexp => [(keyReady s, .keyLen)]
  | .enc | .dec | .ark _ => [(blkReady s, .blkLen), (s.kv, .noKey)]
  | .ecbenc | .ecbdec => [(s.kv, .noKey), (!ecbOutOfRange aes512 s, .range), (!ecbOverlaps s, .overlap)]
  | .sub | .shr | .mix | .isub | .ishr | .imix => [(blkReady s, .blkLen)]

/-- Every command is the template with its preconditions and an effect that leaves `ERR` alone. -/
theorem exec_eq_command (i : Instr) : ∃ effect : State → State,
    (∀ s, exec i s = command (commandPreconditions i s) effect s) ∧ ∀ s, (effect s).err = s.err := by
  cases i with
  | kexp => exact ⟨_, exec_kexp, fun _ => rfl⟩
  | enc => exact ⟨_, exec_enc, fun _ => rfl⟩
  | dec => exact ⟨_, exec_dec, fun _ => rfl⟩
  | ecbenc => exact ⟨_, exec_ecbenc, fun _ => rfl⟩
  | ecbdec => exact ⟨_, exec_ecbdec, fun _ => rfl⟩
  | sub => exact ⟨_, exec_sub, fun _ => rfl⟩
  | shr => exact ⟨_, exec_shr, fun _ => rfl⟩
  | mix => exact ⟨_, exec_mix, fun _ => rfl⟩
  | ark r => exact ⟨_, exec_ark r, fun _ => rfl⟩
  | isub => exact ⟨_, exec_isub, fun _ => rfl⟩
  | ishr => exact ⟨_, exec_ishr, fun _ => rfl⟩
  | imix => exact ⟨_, exec_imix, fun _ => rfl⟩

/-- The codes of the preconditions in a list that fail, in the order of the list. -/
def failedCodes (pre : List (Bool × ErrCode)) : List Nat :=
  (pre.filter fun p => !p.1).map fun p => (errCode p.2).toNat

@[simp] theorem failedCodes_nil : failedCodes [] = [] := rfl

@[simp] theorem failedCodes_cons (ok : Bool) (e : ErrCode) (pre : List (Bool × ErrCode)) :
    failedCodes ((ok, e) :: pre) = (if ok = false then [(errCode e).toNat] else []) ++ failedCodes pre := by
  cases ok <;> simp [failedCodes]

/-- The first precondition that fails gives the first of the codes. -/
theorem head?_failedCodes (pre : List (Bool × ErrCode)) :
    (failedCodes pre).head? = (firstViolation pre).map fun e => (errCode e).toNat := by
  induction pre with
  | nil => rfl
  | cons p pre ih =>
    obtain ⟨ok, e⟩ := p
    cases ok with
    | false => rfl
    | true => simpa [firstViolation] using ih

theorem keyReady_eq_false_iff (s : State) : keyReady s = false ↔ s.keyfill ≠ 0xFFFF#16 := by
  rw [← Bool.not_eq_true, keyReady_iff]

theorem blkReady_eq_false_iff (s : State) : blkReady s = false ↔ s.blkfill ≠ 0xF#4 := by
  rw [← Bool.not_eq_true, blkReady_iff]

/-- The causes of 60_exceptions R181 that a command meets are the preconditions of its own that fail. -/
theorem commandCauses_eq_failedCodes (i : Instr) (s : State) :
    commandCauses aes512.nblk i s = failedCodes (commandPreconditions i s) := by
  cases i with
  | kexp => simp [commandCauses, commandPreconditions, readsBlk, readsRk, isEcb, errCode, keyReady_eq_false_iff]
  | enc | dec | ark | sub | shr | mix | isub | ishr | imix =>
    simp [commandCauses, commandPreconditions, readsBlk, readsRk, isEcb, errCode, blkReady_eq_false_iff]
  | ecbenc | ecbdec =>
    simp [commandCauses, commandPreconditions, readsBlk, readsRk, isEcb, errCode, ecbOutOfRange_iff, ecbOverlaps_iff]

theorem ite_singleton_sublist (c : Prop) [Decidable c] (n : Nat) : (if c then [n] else []).Sublist [n] := by
  split
  · exact .refl _
  · exact List.nil_sublist _

/-- The causes are listed by rising code. -/
theorem commandCauses_sublist (nblk : Nat) (i : Instr) (s : State) : (commandCauses nblk i s).Sublist [2, 3, 4, 5, 6] := by
  have hsub := ite_singleton_sublist
  exact ((((hsub _ 2).append (hsub _ 3)).append (hsub _ 4)).append (hsub _ 5)).append (hsub _ 6)

/-- So the first cause is the lowest (60_exceptions R190). -/
theorem min?_commandCauses (nblk : Nat) (i : Instr) (s : State) :
    (commandCauses nblk i s).min? = (commandCauses nblk i s).head? := by
  have hrising : [2, 3, 4, 5, 6].Pairwise fun a b => min a b = a := by decide
  exact List.min?_eq_head? (hrising.sublist (commandCauses_sublist nblk i s))

/-! ### The lowest cause is reported -/

/-- From `s` the outcome `o` raises the lowest of `causes` and changes nothing else, or has `ERR` 0 when there is none. -/
structure ReportsLowest (causes : List Nat) (s : State) (o : Result) : Prop where
  raised : ∀ code, causes.min? = some code → o = raises s (BitVec.ofNat 4 code)
  completed : causes.min? = none → ∃ t, o = .next t ∧ t.err = false

theorem reportsLowest_nil {s t : State} (ht : t.err = false) : ReportsLowest [] s (.next t) :=
  ⟨fun _ h => (by cases h), fun _ => ⟨t, rfl, ht⟩⟩

theorem reportsLowest_singleton (s : State) (code : Nat) : ReportsLowest [code] s (raises s (BitVec.ofNat 4 code)) :=
  ⟨fun _ h => Option.some.inj h ▸ rfl, fun h => by cases h⟩

theorem raises_errCode_toNat (e : ErrCode) (s : State) : raises s (BitVec.ofNat 4 (errCode e).toNat) = .next (raiseError e s) := by
  rw [BitVec.ofNat_toNat, BitVec.setWidth_eq]
  rfl

/-- A command reports the first of its preconditions that fails, which has the lowest code. -/
theorem exec_reportsLowest (i : Instr) {s : State} (herr : s.err = false) :
    ReportsLowest (commandCauses aes512.nblk i s) s (exec i s) := by
  obtain ⟨effect, hexec, heff⟩ := exec_eq_command i
  have hmin : (commandCauses aes512.nblk i s).min? =
      (firstViolation (commandPreconditions i s)).map fun e => (errCode e).toNat := by
    rw [min?_commandCauses, commandCauses_eq_failedCodes, head?_failedCodes]
  constructor
  · intro code hcode
    obtain ⟨e, hv, rfl⟩ := Option.map_eq_some_iff.1 (hmin ▸ hcode)
    rw [hexec, command_violated herr hv, raises_errCode_toNat]
  · intro hnone
    have hpre := (firstViolation_eq_none _).1 (Option.map_eq_none_iff.1 (hmin ▸ hnone))
    exact ⟨effect s, (hexec s).trans (command_admitted herr hpre), (heff s).trans herr⟩

section
variable {cfg : Config} {run : Instr → State → Host.Outcome State Fault Refusal} {off v : Word} {s : State}

/-- A write to an offset that a host may write, other than `CMD`, raises nothing (44_host_access R165). -/
theorem hostWrite_writable (herr : s.err = false) (hw : writableOffset cfg.nblk off.toNat = true) :
    ∃ t, hostWrite cfg run off v s = .next t ∧ t.err = false := by
  obtain ⟨ha, ho | ho | ho | ho | ho | ho⟩ := of_decide_eq_true hw
  · exact ⟨_, hostWrite_src herr (regAt_src ho), herr⟩
  · exact ⟨_, hostWrite_dst herr (regAt_dst ho), herr⟩
  · exact ⟨_, hostWrite_count herr (regAt_count ho), herr⟩
  · obtain ⟨j, hj⟩ : ∃ j : Fin 4, j.val = (off.toNat - 0x020) / 4 := ⟨⟨_, by omega⟩, rfl⟩
    exact ⟨_, hostWrite_blkw herr (regAt_blkw j (by omega)), herr⟩
  · obtain ⟨i, hi⟩ : ∃ i : Fin 16, i.val = (off.toNat - 0x040) / 4 := ⟨⟨_, by omega⟩, rfl⟩
    exact ⟨_, hostWrite_keyw herr (regAt_keyw i (by omega)), herr⟩
  · have hn : (off.toNat - 0x1000) / 4 < 4 * cfg.nblk := by omega
    have hoff : off.toNat = 0x1000 + 4 * ((off.toNat - 0x1000) / 4) := by omega
    exact ⟨_, hostWrite_dmemw herr (regAt_dmemw hn hoff), herr⟩

/-- A write to any other offset but that of `CMD` raises `E_ADDR` (60_exceptions R188). -/
theorem hostWrite_not_writable (herr : s.err = false) (hcmd : off ≠ 0#32)
    (hw : ¬writableOffset cfg.nblk off.toNat = true) : hostWrite cfg run off v s = raises s 7#4 := by
  have hcmd : off.toNat ≠ 0 := fun h => hcmd (BitVec.eq_of_toNat_eq h)
  rw [writableOffset, decide_eq_true_iff] at hw
  by_cases ha : off.toNat % 4 = 0
  · exact hostWrite_addr herr (regAt_not_writable (by omega))
  · exact hostWrite_addr herr (.inl (regAt_misaligned ha))

end

/-- A host step reports the lowest of its causes: a write by its offset, `CMD` by its word; a read and a reset have none. -/
theorem hostStep_reportsLowest (h : HostStep) {s : State} (herr : s.err = false) :
    ReportsLowest (errorCauses aes512.nblk h s) s (hostStep aes512 exec h s) := by
  cases h with
  | reset => exact reportsLowest_nil rfl
  | rd off => exact reportsLowest_nil herr
  | wr off v =>
    by_cases hcmd : off = 0#32
    · subst hcmd
      cases hd : decode v with
      | error e =>
        simp only [errorCauses, hostStep, if_true, hd, hostWrite_illegal herr hd]
        exact reportsLowest_singleton s 1
      | ok i =>
        simp only [errorCauses, hostStep, if_true, hd, hostWrite_legal herr hd]
        exact exec_reportsLowest i herr
    · by_cases hw : writableOffset aes512.nblk off.toNat = true
      · obtain ⟨t, ht, hterr⟩ := hostWrite_writable (v := v) herr hw
        simp only [errorCauses, hostStep, if_neg hcmd, if_pos hw]
        rw [ht]
        exact reportsLowest_nil hterr
      · simp only [errorCauses, hostStep, if_neg hcmd, if_neg hw, hostWrite_not_writable herr hcmd hw]
        exact reportsLowest_singleton s 7

/-- In the halted state no step but a `RESET` raises an error or replaces the recorded one. -/
theorem step_halted_keeps_error {s : State} {h : HostStep} {rest : List HostStep} (hp : s.pending = h :: rest)
    (herr : s.err = true) (hreset : h ≠ .reset) : ∃ t, step s = .next t ∧ t.err = true ∧ t.ecode = s.ecode := by
  cases h with
  | reset => exact absurd rfl hreset
  | rd off => exact ⟨_, step_read hp, herr, rfl⟩
  | wr off v => exact ⟨_, (step_write hp).trans (hostWrite_halted herr), herr, rfl⟩

/-- Settles O49: the host step reports the lowest of its causes, which do not depend on the steps still to come. -/
theorem lowestCauseIsReported : Obligations.LowestCauseIsReported := by
  intro s h rest hp
  refine ⟨fun herr => ?_, step_halted_keeps_error hp⟩
  obtain ⟨hraised, hcompleted⟩ : ReportsLowest (errorCauses aes512.nblk h s) { s with pending := rest } (step s) :=
    step_issue hp ▸ hostStep_reportsLowest h (s := { s with pending := rest }) herr
  cases hmin : (errorCauses aes512.nblk h s).min? with
  | some code => exact ⟨_, hraised code hmin, rfl⟩
  | none => exact hcompleted hmin

end Sys2Proof.Machine

/-! SUPPORT. Decoding and encoding of command words (30_encoding R70 to R73). -/

namespace Sys2Proof

/-! ### The decoder by its three tests -/

/-- The four answers of the decoder, each with the tests that lead to it (30_encoding R72). -/
theorem decode_iff (w : Word) :
    (decode w = .error .zeroField ↔ (cmdFields w).zero ≠ 0#20) ∧
    (decode w = .error .opcode ↔ (cmdFields w).zero = 0#20 ∧ instrOfOp (cmdFields w).op (cmdFields w).r = none) ∧
    (decode w = .error .roundField ↔ (cmdFields w).zero = 0#20 ∧ instrOfOp (cmdFields w).op (cmdFields w).r ≠ none ∧
      (cmdFields w).r ≠ 0#4 ∧ (cmdFields w).op ≠ 0x0B#8) ∧
    ∀ i, decode w = .ok i ↔ (cmdFields w).zero = 0#20 ∧ instrOfOp (cmdFields w).op (cmdFields w).r = some i ∧
      ((cmdFields w).r = 0#4 ∨ (cmdFields w).op = 0x0B#8) := by
  simp only [decode]
  by_cases hzero : (cmdFields w).zero = 0#20
  · cases hop : instrOfOp (cmdFields w).op (cmdFields w).r with
    | none => simp [hzero]
    | some i =>
      by_cases hround : (cmdFields w).r ≠ 0#4 ∧ (cmdFields w).op ≠ 0x0B#8
      · simp [hzero, hround]
      · simp only [hzero, hround, if_false]
        rw [not_and_or, not_not, not_not] at hround
        simp [hround]
  · simp [hzero]

theorem decode_eq_ok_iff {w : Word} {i : Instr} : decode w = .ok i ↔
    (cmdFields w).zero = 0#20 ∧ instrOfOp (cmdFields w).op (cmdFields w).r = some i ∧
      ((cmdFields w).r = 0#4 ∨ (cmdFields w).op = 0x0B#8) := by
  obtain ⟨-, -, -, hok⟩ := decode_iff w
  exact hok i

/-! ### A word and its fields -/

/-- A word is its three fields put together. -/
theorem append_cmdFields (w : Word) : (cmdFields w).zero ++ (cmdFields w).r ++ (cmdFields w).op = w := by
  apply BitVec.eq_of_toNat_eq
  have hr := (cmdFields w).r.isLt
  have hop := (cmdFields w).op.isLt
  rw [BitVec.toNat_append, ← Nat.shiftLeft_add_eq_or_of_lt hop, BitVec.toNat_append, ← Nat.shiftLeft_add_eq_or_of_lt hr]
  simp only [toNat_cmdFields_op, toNat_cmdFields_r, toNat_cmdFields_zero, Nat.shiftLeft_eq]
  omega

/-- Fields that pass the three tests are those of the command they name. -/
theorem eq_instrFields {f : CmdFields} {i : Instr} (hzero : f.zero = 0#20) (hop : instrOfOp f.op f.r = some i)
    (hround : f.r = 0#4 ∨ f.op = 0x0B#8) : f = instrFields i := by
  obtain ⟨op, r, zero⟩ := f
  unfold instrOfOp at hop
  split at hop
  case h_13 => cases hop
  all_goals
    cases hop
    simp_all [instrFields, ← BitVec.toNat_inj]

theorem decode_encode (i : Instr) : decode (encode i) = .ok i := by
  cases i with
  | ark r => revert r; decide
  | kexp | enc | dec | ecbenc | ecbdec | sub | shr | mix | isub | ishr | imix => rfl

/-- Settles O2: a word is its fields put together, and the fields of a word that passes the three tests are the command's. -/
theorem decodeIffEncode : Obligations.DecodeIffEncode := by
  intro i w
  constructor
  · intro h
    obtain ⟨hzero, hop, hround⟩ := decode_eq_ok_iff.1 h
    have hfields : cmdFields w = instrFields i := eq_instrFields hzero hop hround
    rw [← append_cmdFields w, hfields, encode]
  · rintro rfl
    exact decode_encode i

/-- Settles O1: the words of the commands are their encodings; the other three each fail one of the tests. -/
theorem commandWordsDecode : Obligations.CommandWordsDecode :=
  ⟨decode_encode .kexp, decode_encode .enc, decode_encode .dec, decode_encode .ecbenc, decode_encode .ecbdec, decode_encode .sub,
    decode_encode (.ark 0), decode_encode (.ark 7), decode_encode (.ark 15), decode_encode .imix, rfl, rfl, rfl⟩

/-! ### The rows of the opcode map -/

/-- A command whose mask is all ones has one word, its `match` (30_encoding R72). -/
theorem decode_iff_mask {i : Instr} {m : Word} (hm : encode i = m) (w : Word) : decode w = .ok i ↔ w &&& 0xFFFFFFFF#32 = m := by
  rw [decodeIffEncode i w, hm, show 0xFFFFFFFF#32 = BitVec.allOnes 32 from rfl, BitVec.and_allOnes]

/-- The mask of `ARK` leaves out bits 11:8 only, so the other two fields of a word under its row are those of `ARK`. -/
theorem cmdFields_of_ark_mask {w : Word} (h : w &&& 0xFFFFF0FF#32 = 0x0000000B#32) :
    (cmdFields w).zero = 0#20 ∧ (cmdFields w).op = 0x0B#8 := by
  have hfields : cmdFields (w &&& 0xFFFFF0FF#32) = cmdFields 0x0000000B#32 := congrArg cmdFields h
  have hzeroMask : (0xFFFFF0FF#32).extractLsb' 12 20 = BitVec.allOnes 20 := by decide
  have hopMask : (0xFFFFF0FF#32).extractLsb' 0 8 = BitVec.allOnes 8 := by decide
  simp only [cmdFields, BitVec.extractLsb'_and, CmdFields.mk.injEq, hzeroMask, hopMask, BitVec.and_allOnes] at hfields
  obtain ⟨hop, -, hzero⟩ := hfields
  exact ⟨hzero, hop⟩

theorem decode_ark_iff_mask (w : Word) : (∃ r, decode w = .ok (.ark r)) ↔ w &&& 0xFFFFF0FF#32 = 0x0000000B#32 := by
  constructor
  · rintro ⟨r, h⟩
    obtain rfl := (decodeIffEncode _ w).1 h
    exact (Laws.Legal.ark r).2
  · intro h
    obtain ⟨hzero, hop⟩ := cmdFields_of_ark_mask h
    refine ⟨(cmdFields w).r.toFin, decode_eq_ok_iff.2 ⟨hzero, ?_, .inr hop⟩⟩
    rw [hop]
    rfl

/-- The `OP` column of 30_encoding R72, read as the values with no command. -/
theorem instrOfOp_eq_none_iff (op : BitVec 8) (r : BitVec 4) : instrOfOp op r = none ↔
    op.toNat ∉ [0x01, 0x02, 0x03, 0x04, 0x05, 0x08, 0x09, 0x0A, 0x0B, 0x0C, 0x0D, 0x0E] := by
  unfold instrOfOp
  split
  case h_13 => simp_all
  all_goals simp [*]

/-- The opcodes of the commands that have no round index. -/
theorem mem_ops_ne_ark_iff (op : Nat) :
    ¬op ∉ [0x01, 0x02, 0x03, 0x04, 0x05, 0x08, 0x09, 0x0A, 0x0B, 0x0C, 0x0D, 0x0E] ∧ op ≠ 0x0B ↔
      op ∈ [0x01, 0x02, 0x03, 0x04, 0x05, 0x08, 0x09, 0x0A, 0x0C, 0x0D, 0x0E] := by
  simp only [List.mem_cons, List.not_mem_nil, or_false, not_not]
  omega

/-! ### The 27 legal words -/

/-- Every command, `ARK` with each of its sixteen round indices. -/
def allInstrs : List Instr :=
  [.kexp, .enc, .dec, .ecbenc, .ecbdec, .sub, .shr, .mix, .isub, .ishr, .imix] ++ (List.finRange 16).map .ark

theorem mem_allInstrs (i : Instr) : i ∈ allInstrs := by
  cases i <;> simp [allInstrs]

theorem encode_injective : Function.Injective encode := fun i j h =>
  Except.ok.inj ((decode_encode i).symm.trans (h ▸ decode_encode j))

theorem nodup_map_encode_allInstrs : (allInstrs.map encode).Nodup :=
  List.Nodup.map encode_injective (by decide)

theorem mem_map_encode_allInstrs (w : Word) : w ∈ allInstrs.map encode ↔ ∃ i, decode w = .ok i := by
  simp only [List.mem_map, mem_allInstrs, true_and, decodeIffEncode _ w, eq_comm]

/-- Settles O3: each row is the command's encoding, `ARK`'s with any round index; the answers of the decoder are `decode_iff`, its
fields read as numbers; the legal words are the encodings of all commands. -/
theorem legalWordsByMaskAndMatch : Obligations.LegalWordsByMaskAndMatch := by
  refine ⟨fun w => ⟨decode_iff_mask rfl w, decode_iff_mask rfl w, decode_iff_mask rfl w, decode_iff_mask rfl w,
    decode_iff_mask rfl w, decode_iff_mask rfl w, decode_iff_mask rfl w, decode_iff_mask rfl w, decode_ark_iff_mask w, decode_iff_mask rfl w,
    decode_iff_mask rfl w, decode_iff_mask rfl w⟩, by decide, fun w => ?_, fun w => ?_, fun w => ?_,
    allInstrs.map encode, rfl, nodup_map_encode_allInstrs, mem_map_encode_allInstrs⟩
  all_goals obtain ⟨hzero, hop, hround, -⟩ := decode_iff w
  · rw [hzero, ← toNat_cmdFields_zero]
    simp [← BitVec.toNat_inj]
  · rw [hop, instrOfOp_eq_none_iff, toNat_cmdFields_op, ← BitVec.toNat_inj, toNat_cmdFields_zero]
    rfl
  · rw [hround, ← mem_ops_ne_ark_iff, and_assoc, and_comm (b := _ ≠ 0), Ne, instrOfOp_eq_none_iff, Ne, Ne, ← BitVec.toNat_inj,
      ← BitVec.toNat_inj, ← BitVec.toNat_inj, toNat_cmdFields_op, toNat_cmdFields_r, toNat_cmdFields_zero]
    rfl

end Sys2Proof

/-! SUPPORT. Every step has a next state (00_scope R15); what a command, a write and a step leave unchanged (10_state R20). -/

namespace Sys2Proof.Machine

/-! ### Totality -/

theorem exec_total (i : Instr) (s : State) : ∃ t, exec i s = .next t := by
  have hr := exec_result i s
  generalize exec i s = o at hr ⊢
  cases hr with
  | halted | raised | block | keys | ecb => exact ⟨_, rfl⟩

theorem hostWrite_total (off v : Word) (s : State) : ∃ t, hostWrite aes512 exec off v s = .next t := by
  have hr := hostWrite_result aes512 exec off v s
  generalize hostWrite aes512 exec off v s = o at hr ⊢
  cases hr with
  | ran _ i => exact exec_total i s
  | halted | raised | src | dst | count | blkw | keyw | dmemw => exact ⟨_, rfl⟩

/-- Settles O46: a write has a next state because every command has one; the other steps have one by definition. -/
theorem everyStepIsTotal : Obligations.EveryStepIsTotal := by
  intro s
  cases hp : s.pending with
  | nil => exact ⟨s, step_idle hp⟩
  | cons h rest =>
    cases h with
    | reset => exact ⟨_, step_reset hp⟩
    | rd off => exact ⟨_, step_read hp⟩
    | wr off v => exact step_write hp ▸ hostWrite_total off v _

/-! ### The step that runs a command -/

/-- A write of a command's word to `CMD` is that command, which a halted core ignores as it ignores the write. -/
theorem hostWrite_runs_exec {cfg : Config} {w : Word} {i : Instr} (hd : decode w = .ok i) (s : State) :
    hostWrite cfg exec 0x000#32 w s = exec i s := by
  cases herr : s.err with
  | true => rw [hostWrite_halted herr, exec_halted i herr]
  | false => exact hostWrite_legal herr hd

/-- Settles O5: the word of `withFetchWord` is the encoding of the command. -/
theorem stepRunsDecodedCommand : Obligations.StepRunsDecodedCommand := by
  refine ⟨fun s w rest i hp hd => (step_write hp).trans (hostWrite_runs_exec hd _), fun s i => ?_⟩
  have hword : decode (BitVec.ofNat 32 ((encode i).toNat % 2 ^ 32)) = .ok i := by
    rw [Nat.mod_eq_of_lt (encode i).isLt, BitVec.ofNat_toNat, BitVec.setWidth_eq, decode_encode]
  have hp : (s.withFetchWord 32 (encode i).toNat).pending =
      .wr 0x000#32 (BitVec.ofNat 32 ((encode i).toNat % 2 ^ 32)) :: s.pending := rfl
  exact (step_write hp).trans (hostWrite_runs_exec hword _)

/-! ### What a command may write -/

theorem isEcb_iff {i : Instr} : isEcb i = true ↔ i = .ecbenc ∨ i = .ecbdec := by
  cases i <;> simp [isEcb]

/-- Settles O33: in each of the things a command can do, the state outside what it names is the old one. -/
theorem commandsWriteOnlyTheirState : Obligations.CommandsWriteOnlyTheirState := by
  intro i s t h
  have hr := exec_result i s
  rw [h] at hr
  cases hr with
  | halted | raised =>
    exact ⟨rfl, rfl, rfl, rfl, rfl, rfl, rfl, rfl, fun _ => ⟨rfl, rfl⟩, fun _ => rfl, fun _ => rfl⟩
  | block _ _ hi =>
    refine ⟨rfl, rfl, rfl, rfl, rfl, rfl, rfl, rfl, fun _ => ⟨rfl, rfl⟩, fun _ => rfl, fun hno => ?_⟩
    obtain ⟨hkexp, hecbenc, hecbdec⟩ := hi
    simp [isEcb_iff, hkexp, hecbenc, hecbdec] at hno
  | keys _ _ hi =>
    exact ⟨rfl, rfl, rfl, rfl, rfl, rfl, rfl, rfl, fun hne => absurd hi hne, fun _ => rfl, fun _ => rfl⟩
  | ecb _ _ _ _ hi =>
    refine ⟨rfl, rfl, rfl, rfl, rfl, rfl, rfl, rfl, fun _ => ⟨rfl, rfl⟩, fun hno => ?_, fun _ => rfl⟩
    exact absurd (isEcb_iff.2 hi) (Bool.eq_false_iff.1 hno)

/-! ### The host's side of a run -/

/-- No command touches the host's side of the run. -/
theorem exec_keeps_host {i : Instr} {s t : State} (h : exec i s = .next t) :
    t.pending = s.pending ∧ t.returned = s.returned := by
  obtain ⟨-, -, -, -, -, -, hpending, hreturned, -⟩ := commandsWriteOnlyTheirState i s t h
  exact ⟨hpending, hreturned⟩

theorem hostWrite_keeps_host {off v : Word} {s t : State} (h : WriteResult aes512 exec off v s (.next t)) :
    t.pending = s.pending ∧ t.returned = s.returned := by
  generalize ho : (Host.Outcome.next t : Result) = o at h
  cases h with
  | ran _ i => exact exec_keeps_host ho.symm
  | halted | raised | src | dst | count | blkw | keyw | dmemw =>
    obtain rfl := Host.Outcome.next.inj ho
    exact ⟨rfl, rfl⟩

/-- Settles O45: the four things a step can do, each with the host step it takes. -/
theorem stepTakesOneHostStep : Obligations.StepTakesOneHostStep := by
  intro s
  refine ⟨step_idle, fun t h => ?_⟩
  obtain ⟨hp, rfl⟩ | ⟨rest, hp, rfl⟩ | ⟨off, rest, hp, rfl⟩ | ⟨off, v, rest, hp, hw⟩ := step_next h <;> rw [hp]
  · exact ⟨rfl, fun _ => rfl, nofun⟩
  · exact ⟨rfl, fun _ => rfl, nofun⟩
  · exact ⟨rfl, fun hread => absurd rfl (hread off rest), fun _ _ _ => ⟨rfl, by simp⟩⟩
  · obtain ⟨hpending, hreturned⟩ := hostWrite_keeps_host hw
    exact ⟨hpending, fun _ => hreturned, nofun⟩

/-! ### What may write the round keys -/

theorem eq_of_regAt_cmd {nblk : Nat} {off : Word} (h : regAt nblk off = .cmd) : off = 0x000#32 := by
  by_contra hne
  have ho : off.toNat ≠ 0x000 := fun ho => hne (BitVec.eq_of_toNat_eq ho)
  simp only [regAt, ho, if_false] at h
  split_ifs at h

/-- A command that changes `RK` or `KV` is a `KEXP` with a full key. -/
theorem exec_changes_keys {i : Instr} {s t : State} (h : exec i s = .next t) (hne : t.rk ≠ s.rk ∨ t.kv ≠ s.kv) :
    i = .kexp ∧ s.err = false ∧ s.keyfill = 0xFFFF#16 ∧ t.rk = expand aes512 s.key ∧ t.kv = true := by
  have hr := exec_result i s
  rw [h] at hr
  cases hr with
  | halted | raised | block | ecb => simp at hne
  | keys herr hk hi => exact ⟨hi, herr, hk, rfl, rfl⟩

/-- A write that changes `RK` or `KV` is one of the word of `KEXP` to `CMD`, with a full key. -/
theorem hostWrite_changes_keys {off v : Word} {s t : State} (h : WriteResult aes512 exec off v s (.next t))
    (hne : t.rk ≠ s.rk ∨ t.kv ≠ s.kv) : (off = 0x000#32 ∧ v = 0x00000001#32) ∧
      s.err = false ∧ s.keyfill = 0xFFFF#16 ∧ t.rk = expand aes512 s.key ∧ t.kv = true := by
  generalize ho : (Host.Outcome.next t : Result) = o at h
  cases h with
  | ran _ i hoff hd =>
    obtain ⟨rfl, hkeys⟩ := exec_changes_keys ho.symm hne
    exact ⟨⟨eq_of_regAt_cmd hoff, (decodeIffEncode .kexp v).1 hd⟩, hkeys⟩
  | halted | raised | src | dst | count | blkw | keyw | dmemw =>
    obtain rfl := Host.Outcome.next.inj ho
    simp at hne

/-- Settles O50: only a write and a `RESET` write the block at all, and a write that changes the round keys is that of `KEXP`. -/
theorem onlyKexpWritesRoundKeys : Obligations.OnlyKexpWritesRoundKeys := by
  intro s t h hne
  obtain ⟨-, rfl⟩ | ⟨rest, hp, rfl⟩ | ⟨off, rest, -, rfl⟩ | ⟨off, v, rest, hp, hw⟩ := step_next h
  · simp at hne
  · exact .inr ⟨by rw [hp]; rfl, rfl⟩
  · simp at hne
  · obtain ⟨⟨rfl, rfl⟩, hkeys⟩ := hostWrite_changes_keys hw hne
    exact .inl ⟨by rw [hp]; rfl, hkeys⟩

/-! ### `KEXP` again -/

/-- Settles O24: a `KEXP` that completes leaves the key as it was, so the second derives the same round keys. -/
theorem kexpTwiceIsKexpOnce : Obligations.KexpTwiceIsKexpOnce := by
  intro s t h herr
  have hr := exec_result .kexp s
  rw [h] at hr
  cases hr with
  | halted hs => exact absurd hs (by simp [herr])
  | raised => exact absurd herr (by simp)
  | block _ _ hi => exact absurd rfl hi.1
  | keys hs hk => exact exec_kexp_admitted hs hk
  | ecb _ _ _ _ hi => exact absurd hi (by simp)

end Sys2Proof.Machine

/-! SUPPORT. The invariant of the machine: it holds at reset and every step keeps it. -/

namespace Sys2Proof.Machine

/-! ### Fill masks and unwritten words -/

/-- A word whose bit is still clear after word j is written is another word, and its bit was clear before. -/
theorem of_getLsbD_setFill_false {n : Nat} {mask : BitVec n} {j k : Fin n} (h : (setFill mask j.val).getLsbD k.val = false) :
    k ≠ j ∧ mask.getLsbD k.val = false := by
  have hbit := getElem_setFill_fin mask j k
  rw [Fin.getElem_fin, ← BitVec.getLsbD_eq_getElem, h] at hbit
  split at hbit
  · cases hbit
  · exact ⟨‹_›, hbit.symm⟩

/-- Where a word with a clear bit reads 0, it still does after another word is written and its bit set. -/
theorem unwritten_setWordAt {m n : Nat} {b : Vector Byte m} {mask : BitVec n} {j k : Fin n} (v : Word) (hk : 4 * k.val + 3 < m)
    (hb : mask.getLsbD k.val = false → wordAt b k.val hk = 0#32) (h : (setFill mask j.val).getLsbD k.val = false) :
    wordAt (setWordAt b j.val v) k.val hk = 0#32 := by
  obtain ⟨hne, hclear⟩ := of_getLsbD_setFill_false h
  rw [wordAt_setWordAt_other b j.val k.val v hk (Fin.val_ne_of_ne hne), hb hclear]

/-- A full key mask stays full. -/
theorem setFill_full_key (i : Nat) : setFill 0xFFFF#16 i = 0xFFFF#16 := BitVec.allOnes_or

theorem wordAt_zero {n : Nat} (j : Nat) (h : 4 * j + 3 < n) : wordAt (Vector.replicate n 0x00#8) j h = 0#32 := by
  simp [wordAt, leWord]

/-! ### Reset -/

theorem inv_resetBlock (s : State) : Inv (resetBlock s) where
  mem_wf := redraw_wf _
  mem_inside := redraw_inside _ _
  code_zero _ := rfl
  code_range h := by cases h
  keys_derived h := by cases h
  keys_absent _ := rfl
  keyfill_full h := by cases h
  key_unwritten i _ := wordAt_zero i.val _
  blk_unwritten j _ := wordAt_zero j.val _

/-- Settles O51: every register is 0, every fill bit is clear, and nothing is listed in `DMEM`. -/
theorem resetMeetsInvariant : Obligations.ResetMeetsInvariant where
  __ := inv_resetBlock State.reset

/-! ### Error entry, commands and writes -/

/-- The invariant does not speak of the host's side of the run. -/
theorem Inv.withHost {s : State} (hs : Inv s) (pending : List HostStep) (returned : List Word) :
    Inv { s with pending := pending, returned := returned } where
  __ := hs

theorem Inv.raiseError {s : State} (hs : Inv s) (e : ErrCode) : Inv (raiseError e s) where
  __ := hs
  code_zero h := by cases h
  code_range _ := errCode_range e

/-- New round keys, derived from a full key. -/
theorem Inv.withRoundKeys {s : State} (hs : Inv s) {K : RoundKeys} (hK : ∃ k, K = expand aes512 k)
    (hfull : s.keyfill = 0xFFFF#16) : Inv { s with rk := K, kv := true } where
  __ := hs
  keys_derived _ := hK
  keys_absent := nofun
  keyfill_full _ := hfull

/-- A block and its fill mask that agree with one another. -/
theorem Inv.withBlock {s : State} (hs : Inv s) {b : Block} {mask : BitVec 4}
    (hb : ∀ j : Fin 4, mask.getLsbD j.val = false → wordAt b j.val (by omega) = 0#32) :
    Inv { s with blk := b, blkfill := mask } where
  __ := hs
  blk_unwritten := hb

/-- A key and its fill mask that agree with one another, the mask as full as it was. -/
theorem Inv.withKey {s : State} (hs : Inv s) {k : MasterKey} {mask : BitVec 16} (hfull : s.kv = true → mask = 0xFFFF#16)
    (hk : ∀ i : Fin 16, mask.getLsbD i.val = false → wordAt k i.val (by omega) = 0#32) :
    Inv { s with key := k, keyfill := mask } where
  __ := hs
  keyfill_full := hfull
  key_unwritten := hk

/-- A memory of canonical form with every listed byte inside. -/
theorem Inv.withMemory {s : State} (hs : Inv s) {m : Memory} (hwf : m.wf = true) (hinside : m.inside aes512.nblk = true) :
    Inv { s with dmem := m } where
  __ := hs
  mem_wf := hwf
  mem_inside := hinside

theorem exec_keeps_inv {i : Instr} {s t : State} (hs : Inv s) (h : exec i s = .next t) : Inv t := by
  have hr := exec_result i s
  rw [h] at hr
  cases hr with
  | halted => exact hs
  | raised _ e => exact hs.raiseError e
  | block _ hb =>
    have hfull : ∀ j : Fin 4, s.blkfill.getLsbD j.val = true := by rw [hb]; decide
    exact hs.withBlock fun j hj => absurd (hfull j) (Bool.eq_false_iff.1 hj)
  | keys _ hk => exact hs.withRoundKeys ⟨s.key, rfl⟩ hk
  | ecb _ _ hr =>
    have hrange : s.count.toNat = 0 ∨ s.dst.toNat + s.count.toNat ≤ aes512.nblk := by
      rw [← Bool.not_eq_true, ecbOutOfRange_iff] at hr
      omega
    exact hs.withMemory (ecbLoop_wf _ _ _ _ _ hs.mem_wf) (ecbLoop_inside _ _ _ _ _ _ hrange hs.mem_inside)

theorem hostWrite_keeps_inv {off v : Word} {s t : State} (hs : Inv s) (h : WriteResult aes512 exec off v s (.next t)) : Inv t := by
  generalize ho : (Host.Outcome.next t : Result) = o at h
  cases h with
  | ran _ i => exact exec_keeps_inv hs ho.symm
  | halted | src | dst | count =>
    obtain rfl := Host.Outcome.next.inj ho
    exact { hs with }
  | raised _ e =>
    obtain rfl := Host.Outcome.next.inj ho
    exact hs.raiseError e
  | blkw _ j =>
    obtain rfl := Host.Outcome.next.inj ho
    exact hs.withBlock fun k => unwritten_setWordAt v _ (hs.blk_unwritten k)
  | keyw _ i =>
    obtain rfl := Host.Outcome.next.inj ho
    refine hs.withKey (fun hk => ?_) fun k => unwritten_setWordAt v _ (hs.key_unwritten k)
    rw [hs.keyfill_full hk, setFill_full_key]
  | dmemw _ n hn =>
    obtain rfl := Host.Outcome.next.inj ho
    exact hs.withMemory (writeMemWord_wf _ _ _ hs.mem_wf) (writeMemWord_inside _ _ _ _ hn hs.mem_inside)

/-- Settles O52: of the four things a step can do, a write is the one that needs its cases; each touches few of the clauses. -/
theorem stepKeepsInvariant : Obligations.StepKeepsInvariant := by
  intro s t hs h
  obtain ⟨-, rfl⟩ | ⟨rest, -, rfl⟩ | ⟨off, rest, -, rfl⟩ | ⟨off, v, rest, -, hw⟩ := step_next h
  · exact hs
  · exact inv_resetBlock _
  · exact hs.withHost _ _
  · exact hostWrite_keeps_inv (hs.withHost rest s.returned) hw

end Sys2Proof.Machine

/-! SUPPORT. The course of a run does not depend on keys, blocks or memory (10_state R27, 60_exceptions R193). -/

namespace Sys2Proof.Machine

/-! ### States that agree on control -/

section
variable {s t : State}

theorem SameControl.raiseError (h : SameControl s t) (e : ErrCode) : SameControl (raiseError e s) (raiseError e t) where
  __ := h
  err := rfl
  ecode := rfl

theorem SameControl.resetBlock (h : SameControl s t) : SameControl (resetBlock s) (resetBlock t) :=
  ⟨rfl, rfl, rfl, rfl, rfl, rfl, rfl, rfl, h.pending⟩

/-! A command's effect writes data only, but for `KV`, which `KEXP` sets whatever the key is. -/

theorem SameControl.block (h : SameControl s t) (b c : Block) : SameControl { s with blk := b } { t with blk := c } where
  __ := h

theorem SameControl.keys (h : SameControl s t) (K L : RoundKeys) :
    SameControl { s with rk := K, kv := true } { t with rk := L, kv := true } where
  __ := h
  kv := rfl

theorem SameControl.ecbEffect (h : SameControl s t) (f : Block → RoundKeys → Block) :
    SameControl (ecbEffect f s) (ecbEffect f t) where
  __ := h

/-- The preconditions of a command read only what the two states agree on. -/
theorem commandPreconditions_congr (h : SameControl s t) (i : Instr) : commandPreconditions i s = commandPreconditions i t := by
  have hkey : keyReady s = keyReady t := by rw [keyReady, keyReady, h.keyfill]
  have hblk : blkReady s = blkReady t := by rw [blkReady, blkReady, h.blkfill]
  have hrange : ecbOutOfRange aes512 s = ecbOutOfRange aes512 t := by
    rw [Bool.eq_iff_iff, ecbOutOfRange_iff, ecbOutOfRange_iff, h.src, h.dst, h.count]
  have hoverlap : ecbOverlaps s = ecbOverlaps t := by
    rw [Bool.eq_iff_iff, ecbOverlaps_iff, ecbOverlaps_iff, h.src, h.dst, h.count]
  cases i <;> simp only [commandPreconditions, hkey, hblk, h.kv, hrange, hoverlap]

end

/-! ### The outcomes of steps -/

/-- The outcomes of two steps or commands agree on control. -/
def SameOutcome (o o' : Result) : Prop := ∀ s' t', o = .next s' → o' = .next t' → SameControl s' t'

section
variable {s t : State}

theorem SameControl.next (h : SameControl s t) : SameOutcome (.next s) (.next t) := by
  intro s' t' hs ht
  cases hs
  cases ht
  exact h

/-! ### Commands -/

/-- Two commands with the same preconditions, whose effects keep the agreement, keep it. -/
theorem command_sameOutcome {pre : List (Bool × ErrCode)} {effect : State → State} (h : SameControl s t)
    (heff : SameControl (effect s) (effect t)) : SameOutcome (command pre effect s) (command pre effect t) := by
  cases hs : s.err with
  | true =>
    rw [command_halted hs, command_halted (h.err ▸ hs)]
    exact h.next
  | false =>
    have ht : t.err = false := h.err ▸ hs
    cases hv : firstViolation pre with
    | some e =>
      rw [command_violated hs hv, command_violated ht hv]
      exact (h.raiseError e).next
    | none =>
      have hpre := (firstViolation_eq_none pre).1 hv
      rw [command_admitted hs hpre, command_admitted ht hpre]
      exact heff.next

/-- Every command but `KEXP` keeps the agreement because its effect writes data only; `KEXP` sets `KV` in both states. -/
theorem exec_sameOutcome (h : SameControl s t) (i : Instr) : SameOutcome (exec i s) (exec i t) := by
  have hpre := commandPreconditions_congr h i
  have hsame : ∀ {effect : State → State}, (∀ u, exec i u = command (commandPreconditions i u) effect u) →
      SameControl (effect s) (effect t) → SameOutcome (exec i s) (exec i t) := fun hexec heff => by
    rw [hexec s, hexec t, hpre]
    exact command_sameOutcome h heff
  cases i with
  | kexp => exact hsame exec_kexp (h.keys _ _)
  | enc => exact hsame exec_enc (h.block _ _)
  | dec => exact hsame exec_dec (h.block _ _)
  | ecbenc => exact hsame exec_ecbenc (h.ecbEffect _)
  | ecbdec => exact hsame exec_ecbdec (h.ecbEffect _)
  | sub => exact hsame exec_sub (h.block _ _)
  | shr => exact hsame exec_shr (h.block _ _)
  | mix => exact hsame exec_mix (h.block _ _)
  | ark r => exact hsame (exec_ark r) (h.block _ _)
  | isub => exact hsame exec_isub (h.block _ _)
  | ishr => exact hsame exec_ishr (h.block _ _)
  | imix => exact hsame exec_imix (h.block _ _)

/-! ### Host steps -/

theorem writeCmd_sameOutcome (h : SameControl s t) (v : Word) : SameOutcome (writeCmd exec v s) (writeCmd exec v t) := by
  unfold writeCmd
  cases decode v with
  | error => exact (h.raiseError .illCmd).next
  | ok i => exact exec_sameOutcome h i

theorem hostWrite_sameOutcome (h : SameControl s t) (off v : Word) :
    SameOutcome (hostWrite aes512 exec off v s) (hostWrite aes512 exec off v t) := by
  cases hs : s.err with
  | true =>
    rw [hostWrite_halted hs, hostWrite_halted (h.err ▸ hs)]
    exact h.next
  | false =>
    have ht : t.err = false := h.err ▸ hs
    cases ho : regAt aes512.nblk off with
    | cmd =>
      obtain rfl := eq_of_regAt_cmd ho
      rw [hostWrite_cmd hs, hostWrite_cmd ht]
      exact writeCmd_sameOutcome h v
    | src =>
      rw [hostWrite_src hs ho, hostWrite_src ht ho]
      exact SameControl.next { h with src := rfl }
    | dst =>
      rw [hostWrite_dst hs ho, hostWrite_dst ht ho]
      exact SameControl.next { h with dst := rfl }
    | count =>
      rw [hostWrite_count hs ho, hostWrite_count ht ho]
      exact SameControl.next { h with count := rfl }
    | blkw j =>
      rw [hostWrite_blkw hs ho, hostWrite_blkw ht ho]
      exact SameControl.next { h with blkfill := congrArg (setFill · j.val) h.blkfill }
    | keyw i =>
      rw [hostWrite_keyw hs ho, hostWrite_keyw ht ho]
      exact SameControl.next { h with keyfill := congrArg (setFill · i.val) h.keyfill }
    | dmemw n =>
      rw [hostWrite_dmemw hs ho, hostWrite_dmemw ht ho]
      exact SameControl.next { h with }
    | status | rkw | misaligned | unmapped =>
      have haddr : regAt aes512.nblk off = .misaligned ∨ regAt aes512.nblk off = .status ∨
          (∃ n, regAt aes512.nblk off = .rkw n) ∨ regAt aes512.nblk off = .unmapped := by simp [ho]
      rw [hostWrite_addr hs haddr, hostWrite_addr ht haddr]
      exact (h.raiseError .addr).next

theorem step_sameOutcome (h : SameControl s t) : SameOutcome (step s) (step t) := by
  cases hp : s.pending with
  | nil =>
    rw [step_idle hp, step_idle (h.pending ▸ hp)]
    exact h.next
  | cons first rest =>
    rw [step_issue hp, step_issue (h.pending ▸ hp)]
    have hrest : SameControl { s with pending := rest } { t with pending := rest } := { h with pending := rfl }
    cases first with
    | reset => exact hrest.resetBlock.next
    | rd off => exact SameControl.next { hrest with }
    | wr off v => exact hostWrite_sameOutcome hrest off v

end

/-- Settles O53: one step keeps the agreement, so any number of steps does. -/
theorem controlIsIndependentOfData : Obligations.ControlIsIndependentOfData := by
  intro n
  induction n with
  | zero =>
    intro s t s' t' h hs ht
    exact h.next s' t' hs ht
  | succ n ih =>
    intro s t s' t' h hs ht
    obtain ⟨u, hu⟩ := everyStepIsTotal s
    obtain ⟨v, hv⟩ := everyStepIsTotal t
    rw [run_succ hu] at hs
    rw [run_succ hv] at ht
    exact ih u v s' t' (step_sameOutcome h u v hu hv) hs ht

end Sys2Proof.Machine

/-! SUPPORT. The inverse primitives byte by byte, linearity (40_round_primitives R95 to R101), and the claims on the block transform
and the key schedule that follow from the laws above. -/

namespace Sys2Proof.Machine

/-! ### The inverse primitives byte by byte -/

@[simp] theorem getElem_invSubBytes (cfg : Config) (b : Block) (i : Fin 16) : (invSubBytes cfg b)[i] = cfg.invSbox b[i] := by
  simp [invSubBytes]

theorem getElem_invShiftRows_aes512 (b : Block) (r c : Fin 4) :
    (invShiftRows aes512 b)[r.val + 4 * c.val] = b[r.val + 4 * ((c.val + 4 - r.val) % 4)] := by
  have hsub : (c - r).val = (c.val + 4 - r.val) % 4 := by revert c r; decide
  have h : cell aes512 (invShiftRows aes512 b) r c = cell aes512 b r (c - r) := cell_ofCells aes512_lawful _ r c
  simp only [cell_aes512, hsub] at h
  simpa only [Nat.add_comm] using h

/-- `INVMIXMAT` row by row (40_round_primitives R99). -/
theorem invMixmat_aes512 (r k : Fin 4) : aes512.invMixmat r k =
    #v[#v[0x0e#8, 0x0b#8, 0x0d#8, 0x09#8], #v[0x09#8, 0x0e#8, 0x0b#8, 0x0d#8],
      #v[0x0d#8, 0x09#8, 0x0e#8, 0x0b#8], #v[0x0b#8, 0x0d#8, 0x09#8, 0x0e#8]][r][k] := by
  revert r k
  decide

/-- A column mixing at the default layout: byte 4 c + r is row r of the matrix times column c. -/
theorem getElem_mulColumns_aes512 (m : Fin 4 → Fin 4 → Byte) (b : Block) (r c : Fin 4) :
    (mulColumns aes512 m b)[4 * c.val + r.val] =
      gmul 0x11B#9 (m r 0) b[4 * c.val] ^^^ gmul 0x11B#9 (m r 1) b[4 * c.val + 1] ^^^
      gmul 0x11B#9 (m r 2) b[4 * c.val + 2] ^^^ gmul 0x11B#9 (m r 3) b[4 * c.val + 3] := by
  have h := cell_mulColumns aes512_lawful m b r c
  simp only [cell_aes512] at h
  exact h

/-- Settles O10: the bytes are cells of the default layout, and lawful parameters make each pair invert on both sides. -/
theorem inversePrimitivesInvert : Obligations.InversePrimitivesInvert := by
  refine ⟨getElem_invSubBytes aes512, getElem_invShiftRows_aes512, fun b c => ?_, fun cfg hcfg b => ?_⟩
  · have hrow := fun r => getElem_mulColumns_aes512 aes512.invMixmat b r c
    refine ⟨(hrow 0).trans ?_, (hrow 1).trans ?_, (hrow 2).trans ?_, (hrow 3).trans ?_⟩ <;> simp [invMixmat_aes512]
  · exact ⟨invSubBytes_subBytes hcfg b, subBytes_invSubBytes hcfg b, invShiftRows_shiftRows hcfg b, shiftRows_invShiftRows hcfg b,
      invMixColumns_mixColumns hcfg b, mixColumns_invMixColumns hcfg b⟩

/-! ### Commutation and linearity -/

theorem subBytes_shiftRows (cfg : Config) (b : Block) : subBytes cfg (shiftRows cfg b) = shiftRows cfg (subBytes cfg b) := by
  ext i hi
  simp [subBytes, shiftRows, ofCells, cell]

theorem invSubBytes_invShiftRows (cfg : Config) (b : Block) :
    invSubBytes cfg (invShiftRows cfg b) = invShiftRows cfg (invSubBytes cfg b) := by
  ext i hi
  simp [invSubBytes, invShiftRows, ofCells, cell]

theorem cell_addRoundKey (cfg : Config) (a b : Block) (r c : Fin 4) :
    cell cfg (addRoundKey a b) r c = cell cfg a r c ^^^ cell cfg b r c := by
  simp only [cell, getElem_addRoundKey]

theorem addRoundKey_ofCells (cfg : Config) (f g : Fin 4 → Fin 4 → Byte) :
    addRoundKey (ofCells cfg f) (ofCells cfg g) = ofCells cfg fun r c => f r c ^^^ g r c := by
  ext i hi
  simp [addRoundKey, ofCells]

/-- A column mixing adds byte by byte because `gmul` is additive (40_round_primitives R101). -/
theorem mulColumns_addRoundKey (cfg : Config) (m : Fin 4 → Fin 4 → Byte) (a b : Block) :
    mulColumns cfg m (addRoundKey a b) = addRoundKey (mulColumns cfg m a) (mulColumns cfg m b) := by
  unfold mulColumns
  rw [addRoundKey_ofCells]
  refine congrArg (ofCells cfg) (funext₂ fun r c => ?_)
  simp only [cell_addRoundKey, gmul_xor_right]
  ac_rfl

/-- Four turns of a row of four leave it as it was. -/
theorem shiftRows_four_times {cfg : Config} (hcfg : cfg.Lawful) (b : Block) :
    shiftRows cfg (shiftRows cfg (shiftRows cfg (shiftRows cfg b))) = b := by
  refine ext_cell hcfg fun r c => ?_
  have hturn : ∀ c n : Fin 4, c + n + n + n + n = c := by decide
  simp only [shiftRows, cell_ofCells hcfg, hturn]

/-- A block of one byte is mixed to itself, because the entries of each row of `MIXMAT` add up to 1. -/
theorem mixColumns_replicate (v : Byte) : mixColumns aes512 (Vector.replicate 16 v) = Vector.replicate 16 v := by
  refine ext_cell aes512_lawful fun r c => ?_
  have hcell : ∀ r c, cell aes512 (Vector.replicate 16 v) r c = v := fun r c => by simp [cell]
  have hrow : aes512.mixmat r 0 ^^^ aes512.mixmat r 1 ^^^ aes512.mixmat r 2 ^^^ aes512.mixmat r 3 = 0x01#8 := by
    revert r
    decide
  rw [mixColumns, cell_mulColumns aes512_lawful]
  simp only [hcell, ← gmul_xor_left, hrow, gmul_one_left]

/-- Settles O11: a byte map commutes with a rearrangement of bytes, `gmul` is additive, and the rows of `MIXMAT` add up to 1. -/
theorem primitivesCommuteAndAreLinear : Obligations.PrimitivesCommuteAndAreLinear :=
  ⟨fun cfg b => ⟨subBytes_shiftRows cfg b, invSubBytes_invShiftRows cfg b⟩,
    fun cfg a b => ⟨mulColumns_addRoundKey cfg _ a b, mulColumns_addRoundKey cfg _ a b⟩, shiftRows_four_times aes512_lawful,
    mixColumns_replicate⟩

/-- Settles O12: the facts of the default tables and of the default layout. -/
theorem defaultsAreLawful : Obligations.DefaultsAreLawful := aes512_lawful

/-! ### The block transform -/

/-- Settles O18: the regrouping of the steps of `Decrypt`. -/
theorem decryptIsInverseRounds : Obligations.DecryptIsInverseRounds := decrypt_eq_invRounds

/-- Settles O19: the rounds of one function undo those of the other in the reverse order. -/
theorem decryptInvertsEncrypt : Obligations.DecryptInvertsEncrypt := fun _ hcfg b K =>
  ⟨decrypt_encrypt hcfg b K, encrypt_decrypt hcfg b K, fun k =>
    ⟨invFullRound_fullRound hcfg b k, invFinalRound_finalRound hcfg b k⟩⟩

/-- `DecryptAll` undoes `EncryptAll` (43_ecb R151). -/
theorem decryptAll_encryptAll {cfg : Config} (hcfg : cfg.Lawful) (B : List Block) (K : RoundKeys) :
    decryptAll cfg (encryptAll cfg B K) K = B := by
  rw [decryptAll, encryptAll, List.map_map]
  exact (List.map_congr_left fun b _ => decrypt_encrypt hcfg b K).trans (List.map_id B)

/-- Settles O20: both functions map a block transform over the sequence. -/
theorem ecbFunctionsActBlockByBlock : Obligations.EcbFunctionsActBlockByBlock := fun _ K _ B =>
  ⟨List.length_map _, List.length_map _, fun _ => ⟨List.getElem?_map, List.getElem?_map⟩, List.map_append, List.map_append,
    fun hcfg => decryptAll_encryptAll hcfg B K⟩

/-! ### The key schedule -/

theorem getElem_expand_last (cfg : Config) (k : MasterKey) : (expand cfg k)[15] = cfg.chunk k 15 := by
  simp [expand]

/-- The bytes of words 1 and 3 of chunk i are those of key words i + 1 and i + 3 (41_key_schedule R120). -/
theorem cyclicChunk_congr {k k' : MasterKey} {i : Fin 15}
    (h : ∀ n : Fin 64, n.val / 4 = (i.val + 1) % 16 ∨ n.val / 4 = (i.val + 3) % 16 → k[n] = k'[n]) (m : Fin 16)
    (hm : m.val / 4 = 1 ∨ m.val / 4 = 3) : (cyclicChunk k i.castSucc)[m] = (cyclicChunk k' i.castSucc)[m] := by
  have hword : (4 * i.val + m.val) % 64 / 4 = (i.val + 1) % 16 ∨ (4 * i.val + m.val) % 64 / 4 = (i.val + 3) % 16 := by omega
  simpa using h ⟨(4 * i.val + m.val) % 64, by omega⟩ hword

/-- Settles O16: `Expand` mixes chunk i, of which words 0 and 2 do not enter the result. -/
theorem expandUsesTwoKeyWords : Obligations.ExpandUsesTwoKeyWords := by
  refine ⟨getElem_expand_mixed, getElem_expand_last, expand_last, fun k k' i h => ?_⟩
  rw [getElem_expand_mixed, getElem_expand_mixed]
  exact keyMixAssist_congr _ (cyclicChunk_congr h)

end Sys2Proof.Machine

/-! SUPPORT. `DMEM` by blocks and words (20_memory R53, R60), and the admitted ECB commands (43_ecb R157, R159). -/

namespace Sys2Proof.Machine

/-! ### Blocks and words after a write -/

theorem readByte_memWrite_same (m : Memory) (a : Nat) (v : Block) (i : Fin 16) :
    readByte (memWrite m a v) (16 * a + i.val) = v[i] := by
  rw [readByte_memWrite, dif_pos (by omega)]
  simp

theorem readByte_memWrite_other (m : Memory) {a x : Nat} (v : Block) (hx : x < 16 * a ∨ 16 * a + 16 ≤ x) :
    readByte (memWrite m a v) x = readByte m x := by
  rw [readByte_memWrite, dif_neg (by omega)]

theorem memRead_memWrite_same (m : Memory) (a : Nat) (v : Block) : memRead (memWrite m a v) a = v :=
  Vector.ext fun i hi => (getElem_memRead ..).trans (readByte_memWrite_same m a v ⟨i, hi⟩)

/-- Two blocks of memory share no byte. -/
theorem memRead_memWrite_other (m : Memory) {a a' : Nat} (v : Block) (h : a' ≠ a) : memRead (memWrite m a v) a' = memRead m a' :=
  Vector.ext fun i hi => by rw [getElem_memRead, getElem_memRead, readByte_memWrite_other m v (by omega)]

/-- Settles O34: the bytes of a block, and blocks as their bytes. -/
theorem blockMemoryReadsAndWrites : Obligations.BlockMemoryReadsAndWrites := fun m a v =>
  ⟨fun i => getElem_memRead m a i.val i.isLt, readByte_memWrite_same m a v, fun _ => readByte_memWrite_other m v,
    memRead_memWrite_same m a v, fun _ => memRead_memWrite_other m v⟩

/-- A word of the data window after a write of a word. -/
theorem readMemWord_writeMemWord (m : Memory) (n n' : Nat) (v : Word) :
    readMemWord (writeMemWord m n v) n' = if n' = n then v else readMemWord m n' := by
  have hword : ∀ k < 4, (4 * n' + k) / 4 = n' ∧ (4 * n' + k) % 4 = k := by omega
  obtain ⟨h0, m0⟩ := hword 0 (by decide)
  obtain ⟨h1, m1⟩ := hword 1 (by decide)
  obtain ⟨h2, m2⟩ := hword 2 (by decide)
  obtain ⟨h3, m3⟩ := hword 3 (by decide)
  rw [Nat.add_zero] at h0 m0
  simp only [readMemWord, readByte_writeMemWord, h0, h1, h2, h3, m0, m1, m2, m3]
  split
  · exact leWord_wordByte v
  · rfl

/-- Settles O36: the write leaves `writeMemWord`, of which the read returns word n'. -/
theorem readReturnsMostRecentWrite : Obligations.ReadReturnsMostRecentWrite := by
  intro s n n' off off' v rest herr hn hoff hn' hoff' hp
  have hwrite : step s = .next { s with pending := .rd off' :: rest, dmem := writeMemWord s.dmem n v } :=
    (step_write hp).trans (hostWrite_dmemw herr (regAt_dmemw hn hoff))
  refine ⟨_, _, hwrite, step_read rfl, ?_, rfl, rfl⟩
  simp only [hostRead_dmemw (regAt_dmemw hn' hoff'), readMemWord_writeMemWord]

/-! ### The block loop over whole sequences -/

section
variable {f : Block → Block} {src dst n : Nat}

/-- The destination blocks hold the transformed source blocks as they were before. -/
theorem blocksAt_ecbLoop (m : Memory) (hd : src = dst ∨ src + n ≤ dst ∨ dst + n ≤ src) :
    blocksAt (ecbLoop f src dst n m) dst n = (blocksAt m src n).map f := by
  rw [blocksAt, blocksAt, List.map_map]
  refine List.map_congr_left fun j hj => Vector.ext fun i hi => ?_
  have hj : j < n := List.mem_range.1 hj
  have hblock : (16 * (dst + j) + i) / 16 - dst = j := by omega
  have hbyte : (16 * (dst + j) + i) % 16 = i := by omega
  rw [getElem_memRead, readByte_ecbLoop f m hd le_rfl, if_pos (by omega)]
  simp only [hblock, hbyte, Function.comp_apply]

theorem readByte_ecbLoop_other (m : Memory) (hd : src = dst ∨ src + n ≤ dst ∨ dst + n ≤ src) {a : Nat}
    (ha : a < 16 * dst ∨ 16 * (dst + n) ≤ a) : readByte (ecbLoop f src dst n m) a = readByte m a := by
  rw [readByte_ecbLoop f m hd le_rfl, if_neg (by omega)]

end

/-! ### The admitted commands -/

section
variable {cfg : Config} {f : Block → RoundKeys → Block} {s : State}

/-- The two sequences of an admitted command are the same or disjoint. -/
theorem EcbAdmitted.disjoint {nblk : Nat} (h : EcbAdmitted nblk s) : s.src.toNat = s.dst.toNat ∨
    s.src.toNat + s.count.toNat ≤ s.dst.toNat ∨ s.dst.toNat + s.count.toNat ≤ s.src.toNat := by
  obtain ⟨-, -, hpos⟩ := h
  rcases Nat.eq_zero_or_pos s.count.toNat with hn | hn
  · omega
  · obtain ⟨-, -, heq | hdisj⟩ := hpos hn
    · exact .inl (congrArg BitVec.toNat heq)
    · exact .inr hdisj

/-- An admitted command meets the three preconditions of 43_ecb R156. -/
theorem ecbCommand_of_admitted (h : EcbAdmitted cfg.nblk s) : ecbCommand cfg f s = .next (ecbEffect f s) := by
  have hdisj := h.disjoint
  obtain ⟨herr, hk, hpos⟩ := h
  have hr : ecbOutOfRange cfg s = false := ecbOutOfRange_eq_false fun hn => by
    obtain ⟨hsrc, hdst, -⟩ := hpos hn
    exact ⟨hsrc, hdst⟩
  have ho : ecbOverlaps s = false := by
    rw [← Bool.not_eq_true, ecbOverlaps_iff]
    omega
  exact ecbCommand_admitted f herr hk hr ho

/-- What an admitted command does (43_ecb R157, R159). -/
theorem ecbCommand_transforms (h : EcbAdmitted cfg.nblk s) : ∃ m : Memory, ecbCommand cfg f s = .next { s with dmem := m } ∧
    blocksAt m s.dst.toNat s.count.toNat = (blocksAt s.dmem s.src.toNat s.count.toNat).map (f · s.rk) ∧
    ∀ a : Nat, (a < 16 * s.dst.toNat ∨ 16 * (s.dst.toNat + s.count.toNat) ≤ a) → readByte m a = readByte s.dmem a :=
  ⟨_, ecbCommand_of_admitted h, blocksAt_ecbLoop s.dmem h.disjoint, fun _ => readByte_ecbLoop_other s.dmem h.disjoint⟩

end

/-- Settles O29: the template of the ECB commands, with `Encrypt`. -/
theorem ecbencEncryptsSequence : Obligations.EcbencEncryptsSequence := fun _ h => ecbCommand_transforms h

/-- Settles O30: the template of the ECB commands, with `Decrypt`. -/
theorem ecbdecDecryptsSequence : Obligations.EcbdecDecryptsSequence := fun _ h => ecbCommand_transforms h

/-- Settles O31: the second command decrypts the blocks the first left at its destination. -/
theorem ecbRoundTripForAnyConfig : Obligations.EcbRoundTripForAnyConfig := by
  intro cfg hcfg s t u place hs henc ht hdec
  obtain ⟨m, hm, hblocks, -⟩ := ecbCommand_transforms (f := encrypt cfg) hs
  obtain rfl := Host.Outcome.next.inj (hm.symm.trans henc)
  obtain ⟨m', hm', hblocks', -⟩ := ecbCommand_transforms (f := decrypt cfg) ht
  obtain rfl := Host.Outcome.next.inj (hm'.symm.trans hdec)
  calc blocksAt m' place.toNat s.count.toNat
    _ = decryptAll cfg (blocksAt m s.dst.toNat s.count.toNat) s.rk := hblocks'
    _ = decryptAll cfg (encryptAll cfg (blocksAt s.dmem s.src.toNat s.count.toNat) s.rk) s.rk := by rw [hblocks]; rfl
    _ = blocksAt s.dmem s.src.toNat s.count.toNat := decryptAll_encryptAll hcfg _ _

end Sys2Proof.Machine

/-! SUPPORT. The step-command sequences of 40_round_primitives R110. -/

namespace Sys2Proof.Machine

/-- A run that answers a next state goes on from there. -/
theorem runCommands_append {is : List Instr} {s t : State} (h : runCommands is s = .next t) (js : List Instr) :
    runCommands (is ++ js) s = runCommands js t := by
  induction is generalizing s with
  | nil => exact Host.Outcome.next.inj h ▸ rfl
  | cons i is ih =>
    obtain ⟨u, hu⟩ := exec_total i s
    rw [runCommands_cons hu] at h
    rw [List.cons_append, runCommands_cons hu, ih h]

/-- From `s`, whatever its block, the commands apply `f` to the block and change nothing else. -/
def ActsOnBlock (s : State) (is : List Instr) (f : Block → Block) : Prop :=
  ∀ b : Block, runCommands is { s with blk := b } = .next { s with blk := f b }

section
variable {s : State}

theorem actsOnBlock_nil : ActsOnBlock s [] fun b => b := fun _ => rfl

theorem ActsOnBlock.append {is js : List Instr} {f g : Block → Block} (hi : ActsOnBlock s is f) (hj : ActsOnBlock s js g) :
    ActsOnBlock s (is ++ js) fun b => g (f b) := fun b => by rw [runCommands_append (hi b), hj]

/-- A round of commands for each element of a list applies the rounds' functions in turn. -/
theorem ActsOnBlock.flatMap {α : Type} {round : α → List Instr} {f : Block → α → Block}
    (h : ∀ r, ActsOnBlock s (round r) fun b => f b r) (l : List α) : ActsOnBlock s (l.flatMap round) fun b => l.foldl f b := by
  induction l with
  | nil => exact actsOnBlock_nil
  | cons r l ih => exact (h r).append ih

/-- One command, then the others. -/
theorem ActsOnBlock.cons {i : Instr} {is : List Instr} {f g : Block → Block} (hi : ActsOnBlock s [i] f)
    (his : ActsOnBlock s is g) : ActsOnBlock s (i :: is) fun b => g (f b) := hi.append his

theorem StepCommandRule.actsOnBlock {i : Instr} {f : Block → Block} (hi : StepCommandRule i f) (herr : s.err = false)
    (hb : s.blkfill = 0xF#4) : ActsOnBlock s [i] f := by
  intro b
  obtain ⟨-, -, hi⟩ := hi { s with blk := b }
  exact runCommands_cons (hi herr hb) []

theorem actsOnBlock_ark (r : Fin 16) (herr : s.err = false) (hb : s.blkfill = 0xF#4) (hk : s.kv = true) :
    ActsOnBlock s [.ark r] fun b => addRoundKey b s.rk[r] :=
  fun b => runCommands_cons (exec_ark_admitted r (s := { s with blk := b }) herr hb hk) []

/-- The sequence for `ENC` is the whitening, the full rounds and the final round (42_block_transform R136): composed, their
functions are `Encrypt` by definition. -/
theorem actsOnBlock_encSteps (herr : s.err = false) (hb : s.blkfill = 0xF#4) (hk : s.kv = true) :
    ActsOnBlock s encSteps fun b => encrypt aes512 b s.rk := by
  have hark := fun r => actsOnBlock_ark r herr hb hk
  have hsub := stepCommandRule_sub.actsOnBlock herr hb
  have hshr := stepCommandRule_shr.actsOnBlock herr hb
  have hmix := stepCommandRule_mix.actsOnBlock herr hb
  have hround := fun r => hsub.cons (hshr.cons (hmix.cons (hark r)))
  have hfinal := hsub.cons (hshr.cons (hark 15))
  have hsteps := ((hark 0).append (.flatMap hround fullRounds)).append hfinal
  exact hsteps

/-- The sequence for `DEC` is the key XOR, the passes and the end of `Decrypt` (42_block_transform R137): composed, their functions
are `Decrypt` by definition. -/
theorem actsOnBlock_decSteps (herr : s.err = false) (hb : s.blkfill = 0xF#4) (hk : s.kv = true) :
    ActsOnBlock s decSteps fun b => decrypt aes512 b s.rk := by
  have hark := fun r => actsOnBlock_ark r herr hb hk
  have hisub := stepCommandRule_isub.actsOnBlock herr hb
  have hishr := stepCommandRule_ishr.actsOnBlock herr hb
  have himix := stepCommandRule_imix.actsOnBlock herr hb
  have hpass := fun r => hishr.cons (hisub.cons ((hark r).cons himix))
  have hend := hishr.cons (hisub.cons (hark 0))
  have hsteps := ((hark 15).append (.flatMap hpass fullRounds.reverse)).append hend
  exact hsteps

end

/-- Settles O27: either sequence applies the command's function to the block, which is the command's whole effect. -/
theorem stepCommandsComputeEncAndDec : Obligations.StepCommandsComputeEncAndDec := by
  intro s herr hk hb
  rw [(blockCommandRule_enc s).admitted herr hb hk, (blockCommandRule_dec s).admitted herr hb hk]
  exact ⟨actsOnBlock_encSteps herr hb hk s.blk, actsOnBlock_decSteps herr hb hk s.blk⟩

end Sys2Proof.Machine

/-! SUPPORT. Byte order (00_scope R12, 20_memory R51). -/

namespace Sys2Proof.Machine

/-- Byte k of a word is the k-th of its four bytes (20_memory R51). -/
theorem extractLsb'_wordAt {n : Nat} (b : Vector Byte n) (j : Nat) (h : 4 * j + 3 < n) (k : Fin 4) :
    (wordAt b j h).extractLsb' (8 * k.val) 8 = b[4 * j + k.val] := by
  have hsum := leWord_toNat b[4 * j] b[4 * j + 1] b[4 * j + 2] b[4 * j + 3]
  have h0 := b[4 * j].isLt
  have h1 := b[4 * j + 1].isLt
  have h2 := b[4 * j + 2].isLt
  have h3 := b[4 * j + 3].isLt
  apply BitVec.eq_of_toNat_eq
  rw [BitVec.extractLsb'_toNat, Nat.shiftRight_eq_div_pow, wordAt, hsum]
  fin_cases k <;> simp only [Nat.add_zero] <;> omega

/-- The four words of a block, low word first, are its 128-bit value (00_scope R12). -/
theorem extractLsb'_laneValue (b : Block) (j : Fin 4) :
    (laneValue b).extractLsb' (32 * j.val) 32 = wordAt b j.val (by omega) := by
  fin_cases j
  · exact BitVec.extractLsb'_append_eq_right
  · exact (BitVec.extractLsb'_append_eq_of_le (by decide)).trans BitVec.extractLsb'_append_eq_right
  · exact (BitVec.extractLsb'_append_eq_of_le (by decide)).trans
      ((BitVec.extractLsb'_append_eq_of_le (by decide)).trans BitVec.extractLsb'_append_eq_right)
  · exact (BitVec.extractLsb'_append_eq_of_le (by decide)).trans
      ((BitVec.extractLsb'_append_eq_of_le (by decide)).trans BitVec.extractLsb'_append_eq_left)

/-- A slice of a slice. -/
theorem extractLsb'_extractLsb' {w start len : Nat} (v : BitVec w) {start' len' : Nat} (h : start' + len' ≤ len) :
    (v.extractLsb' start len).extractLsb' start' len' = v.extractLsb' (start + start') len' := by
  ext k hk
  have hlt : start' + k < len := by omega
  simp [hlt, Nat.add_assoc]

theorem extractLsb'_laneValue_byte (b : Block) (i : Fin 16) : (laneValue b).extractLsb' (8 * i.val) 8 = b[i] := by
  have hword := extractLsb'_laneValue b ⟨i.val / 4, by omega⟩
  have hbyte := extractLsb'_wordAt b (i.val / 4) (by omega) ⟨i.val % 4, by omega⟩
  have hplace : 32 * (i.val / 4) + 8 * (i.val % 4) = 8 * i.val := by omega
  have hindex : 4 * (i.val / 4) + i.val % 4 = i.val := by omega
  rw [← hword, extractLsb'_extractLsb' _ (by omega)] at hbyte
  simpa only [hplace, hindex, Fin.getElem_fin] using hbyte

/-- Settles O37: a block's value is its words, a word its bytes; the write sets the four bytes of word 0. -/
theorem wordsAreLittleEndian : Obligations.WordsAreLittleEndian := by
  refine ⟨extractLsb'_laneValue_byte, fun s j => extractLsb'_laneValue s.blk j, fun s rest hp herr => ?_⟩
  refine ⟨_, (step_write hp).trans (hostWrite_blkw herr (regAt_blkw 0 rfl)), ?_, ?_, ?_, ?_⟩ <;>
    exact (getElem_setWordAt ..).trans ((if_pos rfl).trans (by decide))

end Sys2Proof.Machine

/-! SUPPORT. What a `RESET` leaves (10_state R35), and that no command succeeds from there (70_reset_and_hazards R211). -/

namespace Sys2Proof.Machine

theorem statusWord_resetBlock (s : State) : statusWord (resetBlock s) = 0x00000000#32 := by
  simp [statusWord]

/-- Settles O43: what a `RESET` leaves is `resetBlock`, each of whose registers is that of the reset state. -/
theorem resetClearsEveryRegister : Obligations.ResetClearsEveryRegister := fun s _ hp =>
  ⟨_, step_reset hp, rfl, rfl, rfl, rfl, rfl, rfl, rfl, rfl, rfl, rfl, rfl, statusWord_resetBlock _,
    fun _ => rfl, Nat.succ_ne_self s.dmem.draw, rfl, rfl⟩

section
variable {s : State} (hkey : s.keyfill = 0x0000#16) (hblk : s.blkfill = 0x0#4) (hk : s.kv = false) (i : Instr)
include hkey hblk hk

/-- With both fill masks clear and no round keys the first precondition of each command fails. -/
theorem firstViolation_unfilled : firstViolation (commandPreconditions i s) =
    some (if i = .kexp then .keyLen else if isEcb i then .noKey else .blkLen) := by
  have hkeyReady : keyReady s = false := (keyReady_eq_false_iff s).2 (by simp [hkey])
  have hblkReady : blkReady s = false := (blkReady_eq_false_iff s).2 (by simp [hblk])
  cases i <;> simp [commandPreconditions, firstViolation, hkeyReady, hblkReady, hk, isEcb]

/-- So no command succeeds (70_reset_and_hazards R211). -/
theorem exec_unfilled (herr : s.err = false) :
    exec i s = raises s (if i = .kexp then 2#4 else if isEcb i then 4#4 else 3#4) := by
  obtain ⟨effect, hexec, -⟩ := exec_eq_command i
  rw [hexec, command_violated herr (firstViolation_unfilled hkey hblk hk i)]
  split_ifs <;> rfl

end

/-- Settles O44: both states have the fill masks and `KV` clear. -/
theorem afterResetNoCommandSucceeds : Obligations.AfterResetNoCommandSucceeds := by
  rintro s (rfl | ⟨u, rfl⟩) i <;> exact exec_unfilled rfl rfl rfl i rfl

end Sys2Proof.Machine
